-- ==== Sys2Proof/Word.lean ====
section
/-! DEFINITION. The two word sizes of gbemu CORE: 8-bit registers and bus bytes, 16-bit addresses and pairs (rules R5, R7). -/

namespace Sys2Proof

/-- `u8` of rule R7: a register, a bus byte, an immediate. -/
abbrev Byte := BitVec 8

/-- `u16` of rule R7: an address, `PC`, `SP`, a register pair. -/
abbrev Word := BitVec 16

/-- A 2-bit shade of the picture (rule R343). -/
abbrev Shade := BitVec 2

end Sys2Proof
end

