-- ==== Sys2Proof/Machine/Bits.lean ====
section
/-! DEFINITION. The bit-field, extension and byte-order helpers of rule R7's notation. -/

namespace Sys2Proof.Machine

/-- `hi(v) = v[15:8]` (R7). -/
def hi (v : Word) : Byte := v.extractLsb' 8 8

/-- `lo(v) = v[7:0]` (R7). -/
def lo (v : Word) : Byte := v.extractLsb' 0 8

/-- `{h, l}` (R7): the high byte first. -/
def joined (h l : Byte) : Word := h ++ l

/-- `zext_16` (R7). -/
def zext16 (b : Byte) : Word := b.setWidth 16

/-- `sext_16` (R7). -/
def sext16 (b : Byte) : Word := b.signExtend 16

/-- The single bit `v[i]` of a byte (R7). -/
def bit (v : Byte) (i : Nat) : Bool := v.getLsbD i

/-- The address `0xFF00 | off` of the high page (R101, R108). -/
def highPage (off : Byte) : Word := 0xFF00#16 ||| zext16 off

/-- `v[3:0]` as a number. -/
def lowNibble (v : Byte) : Nat := v.toNat % 16

/-- `v[7:4]` as a number. -/
def highNibble (v : Byte) : Nat := v.toNat / 16

end Sys2Proof.Machine
end

