-- ==== Sys2Proof/Syntax.lean ====
section
/-! DEFINITION. The instructions of gbemu-ISA: one constructor of `Instr` per row of spec/opcode_table.json. `M` in a
name is the byte at `x[HL]` (index 6 of table r8), `I` an immediate operand, `R` one of the seven registers. -/

namespace Sys2Proof

/-- Table `r8` without index 6 (R104). -/
inductive Reg8 where
  | b | c | d | e | h | l | a
  deriving DecidableEq, Repr

/-- The 16-bit operands of tables `rp` (no `af`) and `rp2` (no `sp`) (R105). -/
inductive Reg16 where
  | bc | de | hl | sp | af
  deriving DecidableEq, Repr

/-- Table `cc` (R106). -/
inductive Cond where
  | nz | z | nc | c
  deriving DecidableEq, Repr

inductive Instr where
  -- quadrant x = 0 of the primary table (R111)
  | nop
  | ldA16Sp (a16 : Word)
  | stop (second : Byte)
  | jr (e8 : Byte)
  | jrCc (cc : Cond) (e8 : Byte)
  | ldRrD16 (rr : Reg16) (d16 : Word)
  | addHlRr (rr : Reg16)
  | ldBcA
  | ldDeA
  | ldHliA
  | ldHldA
  | ldABc
  | ldADe
  | ldAHli
  | ldAHld
  | incRr (rr : Reg16)
  | decRr (rr : Reg16)
  | incR (r : Reg8)
  | incM
  | decR (r : Reg8)
  | decM
  | ldRI (r : Reg8) (d8 : Byte)
  | ldMI (d8 : Byte)
  | rlca
  | rrca
  | rla
  | rra
  | daa
  | cpl
  | scf
  | ccf
  -- quadrant x = 1
  | ldRR (dst src : Reg8)
  | ldRM (r : Reg8)
  | ldMR (r : Reg8)
  | halt
  -- quadrant x = 2, and the immediate forms of quadrant x = 3
  | addR (r : Reg8)
  | addM
  | addI (d8 : Byte)
  | adcR (r : Reg8)
  | adcM
  | adcI (d8 : Byte)
  | subR (r : Reg8)
  | subM
  | subI (d8 : Byte)
  | sbcR (r : Reg8)
  | sbcM
  | sbcI (d8 : Byte)
  | andR (r : Reg8)
  | andM
  | andI (d8 : Byte)
  | xorR (r : Reg8)
  | xorM
  | xorI (d8 : Byte)
  | orR (r : Reg8)
  | orM
  | orI (d8 : Byte)
  | cpR (r : Reg8)
  | cpM
  | cpI (d8 : Byte)
  -- quadrant x = 3
  | retCc (cc : Cond)
  | ldhA8A (a8 : Byte)
  | addSpE8 (e8 : Byte)
  | ldhAA8 (a8 : Byte)
  | ldHlSpE8 (e8 : Byte)
  | popRr (rr : Reg16)
  | ret
  | reti
  | jpHl
  | ldSpHl
  | jpCc (cc : Cond) (a16 : Word)
  | ldCA
  | ldA16A (a16 : Word)
  | ldAC
  | ldAA16 (a16 : Word)
  | jp (a16 : Word)
  | prefixCb
  | di
  | ei
  | callCc (cc : Cond) (a16 : Word)
  | pushRr (rr : Reg16)
  | call (a16 : Word)
  | rst (t : Byte)
  -- the 11 undefined opcodes (R113)
  | illegalD3
  | illegalDB
  | illegalDD
  | illegalE3
  | illegalE4
  | illegalEB
  | illegalEC
  | illegalED
  | illegalF4
  | illegalFC
  | illegalFD
  -- the prefixed table (R112)
  | rlcR (r : Reg8)
  | rlcM
  | rrcR (r : Reg8)
  | rrcM
  | rlR (r : Reg8)
  | rlM
  | rrR (r : Reg8)
  | rrM
  | slaR (r : Reg8)
  | slaM
  | sraR (r : Reg8)
  | sraM
  | swapR (r : Reg8)
  | swapM
  | srlR (r : Reg8)
  | srlM
  | bitR (b : BitVec 3) (r : Reg8)
  | bitM (b : BitVec 3)
  | resR (b : BitVec 3) (r : Reg8)
  | resM (b : BitVec 3)
  | setR (b : BitVec 3) (r : Reg8)
  | setM (b : BitVec 3)
  deriving DecidableEq, Repr

end Sys2Proof
end

