-- ==== Sys2Proof/WellFormed.lean ====
section
/-! DEFINITION. Which terms of `Instr` are instructions of the opcode table: the 16-bit operand comes from the table its
row names (R105), a restart target is one of the eight of table `rst` (R107). All other operands are well formed by type. -/

namespace Sys2Proof

/-- Table `rp` (R105): `BC`, `DE`, `HL`, `SP`. -/
def Reg16.inRp : Reg16 → Bool
  | .af => false
  | _ => true

/-- Table `rp2` (R105): `BC`, `DE`, `HL`, `AF`. -/
def Reg16.inRp2 : Reg16 → Bool
  | .sp => false
  | _ => true

/-- Table `rst` (R107): `8*y` for a 3-bit `y`. -/
def isRstTarget (t : Byte) : Bool := (t &&& 0xC7) == 0

/-- A term that some encoding of the opcode table stands for. -/
def Instr.wellFormed : Instr → Bool
  | .ldRrD16 rr _ => rr.inRp
  | .addHlRr rr => rr.inRp
  | .incRr rr => rr.inRp
  | .decRr rr => rr.inRp
  | .popRr rr => rr.inRp2
  | .pushRr rr => rr.inRp2
  | .rst t => isRstTarget t
  | _ => true

end Sys2Proof
end

