-- ==== Sys2Proof/Decode.lean ====
section
/-! DEFINITION. The decoder and the encoder of gbemu-ISA (rules R100 to R115), the encoded length and the cycle cost. -/

namespace Sys2Proof

open Sys2Proof.Machine (bit joined hi lo)

/-! ## Operand tables -/

/-- Table `r8` (R104) by the low three bits of `i`; `none` is index 6, the byte at `x[HL]`. -/
def r8OfIndex (i : Nat) : Option Reg8 :=
  match i with
  | 0 => some .b
  | 1 => some .c
  | 2 => some .d
  | 3 => some .e
  | 4 => some .h
  | 5 => some .l
  | 6 => none
  | _ => some .a

def Reg8.index : Reg8 → Byte
  | .b => 0
  | .c => 1
  | .d => 2
  | .e => 3
  | .h => 4
  | .l => 5
  | .a => 7

/-- Table `rp` (R105). -/
def rpOfIndex (p : Nat) : Reg16 :=
  match p with
  | 0 => .bc
  | 1 => .de
  | 2 => .hl
  | _ => .sp

/-- Table `rp2` (R105). -/
def rp2OfIndex (p : Nat) : Reg16 :=
  match p with
  | 0 => .bc
  | 1 => .de
  | 2 => .hl
  | _ => .af

/-- The index `p` of a 16-bit operand in its table: `SP` and `AF` are both index 3 (R105). -/
def Reg16.index : Reg16 → Byte
  | .bc => 0
  | .de => 1
  | .hl => 2
  | .sp => 3
  | .af => 3

/-- Table `cc` (R106), by the two bits 4:3 of the opcode. -/
def ccOfIndex (i : Nat) : Cond :=
  match i with
  | 0 => .nz
  | 1 => .z
  | 2 => .nc
  | _ => .c

def Cond.index : Cond → Byte
  | .nz => 0
  | .z => 1
  | .nc => 2
  | .c => 3

/-- A condition on the flag byte (R106): it reads Zero or Carry only. -/
def Cond.holds (cc : Cond) (f : Byte) : Bool :=
  match cc with
  | .nz => !bit f 7
  | .z => bit f 7
  | .nc => !bit f 4
  | .c => bit f 4

/-! ## Decoding -/

/-- What the first byte says of an instruction (R100, R101): whole, with an 8-bit or a 16-bit immediate to come, or the
prefix of the second table. -/
inductive Shape where
  | whole (i : Instr)
  | imm8 (k : Byte → Instr)
  | imm16 (k : Word → Instr)
  | prefixed

/-- Quadrant `x = 0` of the primary table (R111). -/
def quadrant0 (y z : Nat) : Shape :=
  let p := y / 2
  let q := y % 2
  match z with
  | 0 =>
    match y with
    | 0 => .whole .nop
    | 1 => .imm16 .ldA16Sp
    | 2 => .imm8 .stop
    | 3 => .imm8 .jr
    | _ => .imm8 (.jrCc (ccOfIndex (y - 4)))
  | 1 => if q = 0 then .imm16 (.ldRrD16 (rpOfIndex p)) else .whole (.addHlRr (rpOfIndex p))
  | 2 =>
    match y with
    | 0 => .whole .ldBcA
    | 1 => .whole .ldABc
    | 2 => .whole .ldDeA
    | 3 => .whole .ldADe
    | 4 => .whole .ldHliA
    | 5 => .whole .ldAHli
    | 6 => .whole .ldHldA
    | _ => .whole .ldAHld
  | 3 => if q = 0 then .whole (.incRr (rpOfIndex p)) else .whole (.decRr (rpOfIndex p))
  | 4 =>
    match r8OfIndex y with
    | some r => .whole (.incR r)
    | none => .whole .incM
  | 5 =>
    match r8OfIndex y with
    | some r => .whole (.decR r)
    | none => .whole .decM
  | 6 =>
    match r8OfIndex y with
    | some r => .imm8 (.ldRI r)
    | none => .imm8 .ldMI
  | _ =>
    match y with
    | 0 => .whole .rlca
    | 1 => .whole .rrca
    | 2 => .whole .rla
    | 3 => .whole .rra
    | 4 => .whole .daa
    | 5 => .whole .cpl
    | 6 => .whole .scf
    | _ => .whole .ccf

/-- Quadrant `x = 1` (R111): the 8-bit register loads, with `HALT` in the slot of `LD (HL),(HL)`. -/
def quadrant1 (y z : Nat) : Instr :=
  match r8OfIndex y, r8OfIndex z with
  | some dst, some src => .ldRR dst src
  | some dst, none => .ldRM dst
  | none, some src => .ldMR src
  | none, none => .halt

/-- Table `alu` (R107) on a register. -/
def aluR (y : Nat) (r : Reg8) : Instr :=
  match y with
  | 0 => .addR r
  | 1 => .adcR r
  | 2 => .subR r
  | 3 => .sbcR r
  | 4 => .andR r
  | 5 => .xorR r
  | 6 => .orR r
  | _ => .cpR r

/-- Table `alu` (R107) on the byte at `x[HL]`. -/
def aluM (y : Nat) : Instr :=
  match y with
  | 0 => .addM
  | 1 => .adcM
  | 2 => .subM
  | 3 => .sbcM
  | 4 => .andM
  | 5 => .xorM
  | 6 => .orM
  | _ => .cpM

/-- Table `alu` (R107) on an immediate. -/
def aluI (y : Nat) : Byte → Instr :=
  match y with
  | 0 => .addI
  | 1 => .adcI
  | 2 => .subI
  | 3 => .sbcI
  | 4 => .andI
  | 5 => .xorI
  | 6 => .orI
  | _ => .cpI

/-- Quadrant `x = 2` (R111). -/
def quadrant2 (y z : Nat) : Instr :=
  match r8OfIndex z with
  | some r => aluR y r
  | none => aluM y

/-- Quadrant `x = 3` (R111). -/
def quadrant3 (y z : Nat) : Shape :=
  let p := y / 2
  let q := y % 2
  match z with
  | 0 =>
    match y with
    | 4 => .imm8 .ldhA8A
    | 5 => .imm8 .addSpE8
    | 6 => .imm8 .ldhAA8
    | 7 => .imm8 .ldHlSpE8
    | _ => .whole (.retCc (ccOfIndex y))
  | 1 =>
    if q = 0 then .whole (.popRr (rp2OfIndex p))
    else match p with
      | 0 => .whole .ret
      | 1 => .whole .reti
      | 2 => .whole .jpHl
      | _ => .whole .ldSpHl
  | 2 =>
    match y with
    | 4 => .whole .ldCA
    | 5 => .imm16 .ldA16A
    | 6 => .whole .ldAC
    | 7 => .imm16 .ldAA16
    | _ => .imm16 (.jpCc (ccOfIndex y))
  | 3 =>
    match y with
    | 0 => .imm16 .jp
    | 1 => .prefixed
    | 2 => .whole .illegalD3
    | 3 => .whole .illegalDB
    | 4 => .whole .illegalE3
    | 5 => .whole .illegalEB
    | 6 => .whole .di
    | _ => .whole .ei
  | 4 =>
    match y with
    | 4 => .whole .illegalE4
    | 5 => .whole .illegalEC
    | 6 => .whole .illegalF4
    | 7 => .whole .illegalFC
    | _ => .imm16 (.callCc (ccOfIndex y))
  | 5 =>
    if q = 0 then .whole (.pushRr (rp2OfIndex p))
    else match p with
      | 0 => .imm16 .call
      | 1 => .whole .illegalDD
      | 2 => .whole .illegalED
      | _ => .whole .illegalFD
  | 6 => .imm8 (aluI y)
  | _ => .whole (.rst (BitVec.ofNat 8 (8 * y)))

/-- The primary table (R111), by the fields `x`, `y`, `z` of the opcode (R102). -/
def primary (op : Byte) : Shape :=
  let y := op.toNat / 8 % 8
  let z := op.toNat % 8
  match op.toNat / 64 with
  | 0 => quadrant0 y z
  | 1 => .whole (quadrant1 y z)
  | 2 => .whole (quadrant2 y z)
  | _ => quadrant3 y z

/-- Table `rot` (R107) on a register. -/
def rotR (y : Nat) (r : Reg8) : Instr :=
  match y with
  | 0 => .rlcR r
  | 1 => .rrcR r
  | 2 => .rlR r
  | 3 => .rrR r
  | 4 => .slaR r
  | 5 => .sraR r
  | 6 => .swapR r
  | _ => .srlR r

/-- Table `rot` (R107) on the byte at `x[HL]`. -/
def rotM (y : Nat) : Instr :=
  match y with
  | 0 => .rlcM
  | 1 => .rrcM
  | 2 => .rlM
  | 3 => .rrM
  | 4 => .slaM
  | 5 => .sraM
  | 6 => .swapM
  | _ => .srlM

/-- The prefixed table (R112): every value of the second byte is an instruction. -/
def prefixedInstr (op2 : Byte) : Instr :=
  let y := op2.toNat / 8 % 8
  let b := op2.extractLsb' 3 3
  match op2.toNat / 64, r8OfIndex (op2.toNat % 8) with
  | 0, some r => rotR y r
  | 0, none => rotM y
  | 1, some r => .bitR b r
  | 1, none => .bitM b
  | 2, some r => .resR b r
  | 2, none => .resM b
  | _, some r => .setR b r
  | _, none => .setM b

/-- The encoded length the first byte decides (R100). An undefined opcode is detected on the first byte alone (R321). -/
def opLength (op : Byte) : Nat :=
  match primary op with
  | .whole _ => 1
  | .imm8 _ => 2
  | .imm16 _ => 3
  | .prefixed => 2

/-- Why a list of bytes is not decoded. -/
inductive DecodeError where
  /-- The list ends before the instruction does. -/
  | truncated
  deriving DecidableEq, Repr

/-- The decoder (R103): the instruction at the head of a list of bytes, and the bytes after it. It is total: each first
byte is an instruction, one of the 11 undefined opcodes (a constructor of their own) or the prefix, and the only
rejection is that the bytes run out. The prefix with no second byte stands for itself (R275). -/
def decode : List Byte → Except DecodeError (Instr × List Byte)
  | [] => .error .truncated
  | op :: rest =>
    match primary op, rest with
    | .whole i, r => .ok (i, r)
    | .imm8 k, b :: r => .ok (k b, r)
    | .imm16 k, l :: h :: r => .ok (k (joined h l), r)
    | .prefixed, op2 :: r => .ok (prefixedInstr op2, r)
    | .prefixed, [] => .ok (.prefixCb, [])
    | _, _ => .error .truncated

/-- The instruction at the head of a list of bytes. -/
def decodeOne (bytes : List Byte) : Option Instr :=
  match decode bytes with
  | .ok (i, _) => some i
  | .error _ => none

/-- The bytes of a word of the opcode table, operand bytes of zeros above them. The table writes the rows of format CB
as the number `{0xCB, op2}` (R115): the first byte is the high one. Log entry 5. -/
def tableBytes (nbits w : Nat) : List Byte :=
  if nbits = 16 ∧ w / 256 % 256 = 0xCB then [0xCB#8, BitVec.ofNat 8 w, 0#8]
  else
    let v := w % 2 ^ nbits
    [BitVec.ofNat 8 v, BitVec.ofNat 8 (v / 256), BitVec.ofNat 8 (v / 65536)]

/-- The instruction the decoder reads from a word of the opcode table. -/
def decodeTableWord (nbits w : Nat) : Option Instr := decodeOne (tableBytes nbits w)

/-! ## Encoding -/

/-- An 8-bit operand index in bits 5:3 (field `y`, R102). -/
def atY (base : Byte) (i : Byte) : Byte := base ||| (i <<< 3)

/-- An 8-bit operand index in bits 2:0 (field `z`, R102). -/
def atZ (base : Byte) (i : Byte) : Byte := base ||| i

/-- A pair index in bits 5:4 (field `p`, R102). -/
def atP (base : Byte) (i : Byte) : Byte := base ||| (i <<< 4)

/-- The second byte of `BIT`, `RES`, `SET` (R260). -/
def bitOp (base : Byte) (b : BitVec 3) (i : Byte) : Byte := base ||| (b.setWidth 8 <<< 3) ||| i

/-- An opcode and a 16-bit immediate, low byte first (R101). -/
def withWord (op : Byte) (v : Word) : List Byte := [op, lo v, hi v]

/-- The encoder: the bytes of an instruction at ascending addresses (R101, R111, R112). -/
def encode : Instr → List Byte
  | .nop => [0x00]
  | .ldA16Sp a => withWord 0x08 a
  | .stop n => [0x10, n]
  | .jr e => [0x18, e]
  | .jrCc cc e => [atY 0x20 cc.index, e]
  | .ldRrD16 rr d => withWord (atP 0x01 rr.index) d
  | .addHlRr rr => [atP 0x09 rr.index]
  | .ldBcA => [0x02]
  | .ldDeA => [0x12]
  | .ldHliA => [0x22]
  | .ldHldA => [0x32]
  | .ldABc => [0x0A]
  | .ldADe => [0x1A]
  | .ldAHli => [0x2A]
  | .ldAHld => [0x3A]
  | .incRr rr => [atP 0x03 rr.index]
  | .decRr rr => [atP 0x0B rr.index]
  | .incR r => [atY 0x04 r.index]
  | .incM => [0x34]
  | .decR r => [atY 0x05 r.index]
  | .decM => [0x35]
  | .ldRI r d => [atY 0x06 r.index, d]
  | .ldMI d => [0x36, d]
  | .rlca => [0x07]
  | .rrca => [0x0F]
  | .rla => [0x17]
  | .rra => [0x1F]
  | .daa => [0x27]
  | .cpl => [0x2F]
  | .scf => [0x37]
  | .ccf => [0x3F]
  | .ldRR dst src => [atZ (atY 0x40 dst.index) src.index]
  | .ldRM r => [atY 0x46 r.index]
  | .ldMR r => [atZ 0x70 r.index]
  | .halt => [0x76]
  | .addR r => [atZ 0x80 r.index]
  | .addM => [0x86]
  | .addI d => [0xC6, d]
  | .adcR r => [atZ 0x88 r.index]
  | .adcM => [0x8E]
  | .adcI d => [0xCE, d]
  | .subR r => [atZ 0x90 r.index]
  | .subM => [0x96]
  | .subI d => [0xD6, d]
  | .sbcR r => [atZ 0x98 r.index]
  | .sbcM => [0x9E]
  | .sbcI d => [0xDE, d]
  | .andR r => [atZ 0xA0 r.index]
  | .andM => [0xA6]
  | .andI d => [0xE6, d]
  | .xorR r => [atZ 0xA8 r.index]
  | .xorM => [0xAE]
  | .xorI d => [0xEE, d]
  | .orR r => [atZ 0xB0 r.index]
  | .orM => [0xB6]
  | .orI d => [0xF6, d]
  | .cpR r => [atZ 0xB8 r.index]
  | .cpM => [0xBE]
  | .cpI d => [0xFE, d]
  | .retCc cc => [atY 0xC0 cc.index]
  | .ldhA8A a => [0xE0, a]
  | .addSpE8 e => [0xE8, e]
  | .ldhAA8 a => [0xF0, a]
  | .ldHlSpE8 e => [0xF8, e]
  | .popRr rr => [atP 0xC1 rr.index]
  | .ret => [0xC9]
  | .reti => [0xD9]
  | .jpHl => [0xE9]
  | .ldSpHl => [0xF9]
  | .jpCc cc a => withWord (atY 0xC2 cc.index) a
  | .ldCA => [0xE2]
  | .ldA16A a => withWord 0xEA a
  | .ldAC => [0xF2]
  | .ldAA16 a => withWord 0xFA a
  | .jp a => withWord 0xC3 a
  | .prefixCb => [0xCB]
  | .di => [0xF3]
  | .ei => [0xFB]
  | .callCc cc a => withWord (atY 0xC4 cc.index) a
  | .pushRr rr => [atP 0xC5 rr.index]
  | .call a => withWord 0xCD a
  | .rst t => [0xC7 ||| t]
  | .illegalD3 => [0xD3]
  | .illegalDB => [0xDB]
  | .illegalDD => [0xDD]
  | .illegalE3 => [0xE3]
  | .illegalE4 => [0xE4]
  | .illegalEB => [0xEB]
  | .illegalEC => [0xEC]
  | .illegalED => [0xED]
  | .illegalF4 => [0xF4]
  | .illegalFC => [0xFC]
  | .illegalFD => [0xFD]
  | .rlcR r => [0xCB, atZ 0x00 r.index]
  | .rlcM => [0xCB, 0x06]
  | .rrcR r => [0xCB, atZ 0x08 r.index]
  | .rrcM => [0xCB, 0x0E]
  | .rlR r => [0xCB, atZ 0x10 r.index]
  | .rlM => [0xCB, 0x16]
  | .rrR r => [0xCB, atZ 0x18 r.index]
  | .rrM => [0xCB, 0x1E]
  | .slaR r => [0xCB, atZ 0x20 r.index]
  | .slaM => [0xCB, 0x26]
  | .sraR r => [0xCB, atZ 0x28 r.index]
  | .sraM => [0xCB, 0x2E]
  | .swapR r => [0xCB, atZ 0x30 r.index]
  | .swapM => [0xCB, 0x36]
  | .srlR r => [0xCB, atZ 0x38 r.index]
  | .srlM => [0xCB, 0x3E]
  | .bitR b r => [0xCB, bitOp 0x40 b r.index]
  | .bitM b => [0xCB, bitOp 0x40 b 6]
  | .resR b r => [0xCB, bitOp 0x80 b r.index]
  | .resM b => [0xCB, bitOp 0x80 b 6]
  | .setR b r => [0xCB, bitOp 0xC0 b r.index]
  | .setM b => [0xCB, bitOp 0xC0 b 6]

/-! ## Length and cost -/

/-- `len` (R100, R110): the true encoded length. -/
def Instr.len (i : Instr) : Nat :=
  match i with
  | .prefixCb => 2
  | _ => (encode i).length

/-- The cost of a conditional form (R109): the condition is taken on the flags before the instruction. -/
def Cond.cost (cc : Cond) (f : Byte) (taken untaken : Nat) : Nat := if cc.holds f then taken else untaken

/-- `cost` in machine cycles (R109, R111, R112, R440), on the flag byte before the instruction. The undefined opcodes
and the prefix have none (R113, R275). -/
def Instr.cost (f : Byte) : Instr → Nat
  | .nop => 1
  | .ldA16Sp _ => 5
  | .stop _ => 1
  | .jr _ => 3
  | .jrCc cc _ => cc.cost f 3 2
  | .ldRrD16 _ _ => 3
  | .addHlRr _ => 2
  | .ldBcA | .ldDeA | .ldHliA | .ldHldA | .ldABc | .ldADe | .ldAHli | .ldAHld => 2
  | .incRr _ | .decRr _ => 2
  | .incR _ | .decR _ => 1
  | .incM | .decM => 3
  | .ldRI _ _ => 2
  | .ldMI _ => 3
  | .rlca | .rrca | .rla | .rra | .daa | .cpl | .scf | .ccf => 1
  | .ldRR _ _ => 1
  | .ldRM _ | .ldMR _ => 2
  | .halt => 1
  | .addR _ | .adcR _ | .subR _ | .sbcR _ | .andR _ | .xorR _ | .orR _ | .cpR _ => 1
  | .addM | .adcM | .subM | .sbcM | .andM | .xorM | .orM | .cpM => 2
  | .addI _ | .adcI _ | .subI _ | .sbcI _ | .andI _ | .xorI _ | .orI _ | .cpI _ => 2
  | .retCc cc => cc.cost f 5 2
  | .ldhA8A _ | .ldhAA8 _ => 3
  | .addSpE8 _ => 4
  | .ldHlSpE8 _ => 3
  | .popRr _ => 3
  | .ret | .reti => 4
  | .jpHl => 1
  | .ldSpHl => 2
  | .jpCc cc _ => cc.cost f 4 3
  | .ldCA | .ldAC => 2
  | .ldA16A _ | .ldAA16 _ => 4
  | .jp _ => 4
  | .prefixCb => 0
  | .di | .ei => 1
  | .callCc cc _ => cc.cost f 6 3
  | .pushRr _ => 4
  | .call _ => 6
  | .rst _ => 4
  | .illegalD3 | .illegalDB | .illegalDD | .illegalE3 | .illegalE4 | .illegalEB | .illegalEC | .illegalED | .illegalF4
  | .illegalFC | .illegalFD => 0
  | .rlcR _ | .rrcR _ | .rlR _ | .rrR _ | .slaR _ | .sraR _ | .swapR _ | .srlR _ => 2
  | .rlcM | .rrcM | .rlM | .rrM | .slaM | .sraM | .swapM | .srlM => 4
  | .bitR _ _ | .resR _ _ | .setR _ _ => 2
  | .bitM _ => 3
  | .resM _ | .setM _ => 4

end Sys2Proof
end

