-- ==== Sys2Proof/Machine/Flags.lean ====
section
/-! DEFINITION. The results and flags of the 8-bit and 16-bit operations (42_alu8.md, 43_alu16.md, 45_rotate_shift.md,
46_bit.md), as functions of their operands. Sums are computed in the naturals and narrowed (R7, R180, R199). -/

namespace Sys2Proof.Machine

/-- The flag byte with the four flags in bits 7 to 4, order Z N H C (R23). -/
def mkF (z n h c : Bool) : Byte :=
  (if z then 0x80 else 0) ||| (if n then 0x40 else 0) ||| (if h then 0x20 else 0) ||| (if c then 0x10 else 0)

/-- `F.Z`, `F.N`, `F.H`, `F.C` of a flag byte (R23). -/
def flagZ (f : Byte) : Bool := bit f 7
def flagN (f : Byte) : Bool := bit f 6
def flagH (f : Byte) : Bool := bit f 5
def flagC (f : Byte) : Bool := bit f 4

/-- A result byte and the flag byte after the operation. -/
structure Result where
  val : Byte
  f : Byte
  deriving DecidableEq, Repr

/-! ## 8-bit arithmetic and logic -/

/-- `ADD` (`c = false`, R182) and `ADC` (R183). -/
def addOp (a s : Byte) (c : Bool) : Result :=
  let t := a.toNat + s.toNat + c.toNat
  let v := BitVec.ofNat 8 t
  ⟨v, mkF (v == 0) false (15 < lowNibble a + lowNibble s + c.toNat) (255 < t)⟩

/-- `SUB`, `CP` (`c = false`, R184, R189) and `SBC` (R185): the flags are the comparisons of R180. -/
def subOp (a s : Byte) (c : Bool) : Result :=
  let v := a - s - BitVec.ofNat 8 c.toNat
  ⟨v, mkF (v == 0) true (lowNibble a < lowNibble s + c.toNat) (a.toNat < s.toNat + c.toNat)⟩

/-- `AND` (R186). -/
def andOp (a s : Byte) : Result := ⟨a &&& s, mkF (a &&& s == 0) false true false⟩

/-- `XOR` (R187). -/
def xorOp (a s : Byte) : Result := ⟨a ^^^ s, mkF (a ^^^ s == 0) false false false⟩

/-- `OR` (R188). -/
def orOp (a s : Byte) : Result := ⟨a ||| s, mkF (a ||| s == 0) false false false⟩

/-- `INC r`, `INC (HL)` (R190): Carry stays. -/
def incOp (f o : Byte) : Result :=
  let v := o + 1
  ⟨v, mkF (v == 0) false (lowNibble o == 15) (flagC f)⟩

/-- `DEC r`, `DEC (HL)` (R192): Carry stays. -/
def decOp (f o : Byte) : Result :=
  let v := o - 1
  ⟨v, mkF (v == 0) true (lowNibble o == 0) (flagC f)⟩

/-! ## Decimal adjust -/

/-- One row of the decimal-adjust table (R195): the key's ranges, the constant, and Carry after. -/
structure DaaRow where
  n : Bool
  c : Bool
  highFrom : Nat
  highTo : Nat
  h : Bool
  lowFrom : Nat
  lowTo : Nat
  add : Byte
  carryAfter : Bool
  deriving DecidableEq, Repr

/-- The 13 rows (R195). -/
def daaTable : List DaaRow := [
  ⟨false, false, 0x0, 0x9, false, 0x0, 0x9, 0x00, false⟩,
  ⟨false, false, 0x0, 0x8, false, 0xA, 0xF, 0x06, false⟩,
  ⟨false, false, 0x0, 0x9, true, 0x0, 0x3, 0x06, false⟩,
  ⟨false, false, 0xA, 0xF, false, 0x0, 0x9, 0x60, true⟩,
  ⟨false, false, 0x9, 0xF, false, 0xA, 0xF, 0x66, true⟩,
  ⟨false, false, 0xA, 0xF, true, 0x0, 0x3, 0x66, true⟩,
  ⟨false, true, 0x0, 0x2, false, 0x0, 0x9, 0x60, true⟩,
  ⟨false, true, 0x0, 0x2, false, 0xA, 0xF, 0x66, true⟩,
  ⟨false, true, 0x0, 0x3, true, 0x0, 0x3, 0x66, true⟩,
  ⟨true, false, 0x0, 0x9, false, 0x0, 0x9, 0x00, false⟩,
  ⟨true, false, 0x0, 0x8, true, 0x6, 0xF, 0xFA, false⟩,
  ⟨true, true, 0x7, 0xF, false, 0x0, 0x9, 0xA0, true⟩,
  ⟨true, true, 0x6, 0xF, true, 0x6, 0xF, 0x9A, true⟩]

/-- Whether a row's key ranges hold (N, C, `A[7:4]`, H, `A[3:0]`) (R194). -/
def DaaRow.covers (r : DaaRow) (a f : Byte) : Bool :=
  r.n == flagN f && r.c == flagC f && r.h == flagH f
    && r.highFrom ≤ highNibble a && highNibble a ≤ r.highTo
    && r.lowFrom ≤ lowNibble a && lowNibble a ≤ r.lowTo

/-- The row a key falls in (R194). -/
def daaRow (a f : Byte) : Option DaaRow := daaTable.find? (fun r => r.covers a f)

/-- `DAA` with a row of the table (R194): Half-carry is cleared, Negative stays. -/
def daaOp (r : DaaRow) (a f : Byte) : Result :=
  let v := a + r.add
  ⟨v, mkF (v == 0) (flagN f) false r.carryAfter⟩

/-! ## Flag instructions -/

/-- The flags after `CPL` (R196). -/
def cplF (f : Byte) : Byte := mkF (flagZ f) true true (flagC f)

/-- The flags after `SCF` (R197). -/
def scfF (f : Byte) : Byte := mkF (flagZ f) false false true

/-- The flags after `CCF` (R198). -/
def ccfF (f : Byte) : Byte := mkF (flagZ f) false false (!flagC f)

/-! ## 16-bit arithmetic -/

/-- The flags after `ADD HL,rr` (R210): Zero stays, carries out of bits 11 and 15. -/
def addHlF (f : Byte) (h v : Word) : Byte :=
  mkF (flagZ f) false (0x0FFF < h.toNat % 4096 + v.toNat % 4096) (0xFFFF < h.toNat + v.toNat)

/-- The flags after `ADD SP,e8` and `LD HL,SP+e8` (R211, R153): the unsigned sum of the low byte and the displacement. -/
def spAddF (sp : Word) (e : Byte) : Byte :=
  mkF false false (15 < sp.toNat % 16 + lowNibble e) (255 < sp.toNat % 256 + e.toNat)

/-! ## Rotates and shifts -/

/-- A rotated or shifted byte and the bit that left it (R240). -/
structure Shifted where
  val : Byte
  carry : Bool
  deriving DecidableEq, Repr

/-- Rotate left circularly (R241, R245). -/
def rlcOp (o : Byte) : Shifted := ⟨o.extractLsb' 0 7 ++ o.extractLsb' 7 1, bit o 7⟩

/-- Rotate right circularly (R242, R246). -/
def rrcOp (o : Byte) : Shifted := ⟨o.extractLsb' 0 1 ++ o.extractLsb' 1 7, bit o 0⟩

/-- Rotate left through Carry (R243, R247). -/
def rlOp (c : Bool) (o : Byte) : Shifted := ⟨o.extractLsb' 0 7 ++ BitVec.ofBool c, bit o 7⟩

/-- Rotate right through Carry (R244, R248). -/
def rrOp (c : Bool) (o : Byte) : Shifted := ⟨BitVec.ofBool c ++ o.extractLsb' 1 7, bit o 0⟩

/-- Shift left arithmetically (R249). -/
def slaOp (o : Byte) : Shifted := ⟨o.extractLsb' 0 7 ++ 0#1, bit o 7⟩

/-- Shift right arithmetically (R250). -/
def sraOp (o : Byte) : Shifted := ⟨o.extractLsb' 7 1 ++ o.extractLsb' 1 7, bit o 0⟩

/-- Exchange the nibbles (R251); Carry is cleared. -/
def swapOp (o : Byte) : Shifted := ⟨o.extractLsb' 0 4 ++ o.extractLsb' 4 4, false⟩

/-- Shift right logically (R252). -/
def srlOp (o : Byte) : Shifted := ⟨0#1 ++ o.extractLsb' 1 7, bit o 0⟩

/-- The flags of the eight general forms (R240). -/
def shiftF (r : Shifted) : Byte := mkF (r.val == 0) false false r.carry

/-- The flags of the accumulator-only forms (R240): Zero is cleared whatever the result. -/
def shiftAF (r : Shifted) : Byte := mkF false false false r.carry

/-! ## Bits -/

/-- The flags after `BIT` (R261): Zero is the complement of the tested bit, Carry stays. -/
def bitF (f : Byte) (b : BitVec 3) (o : Byte) : Byte := mkF (!bit o b.toNat) false true (flagC f)

/-- `RES` (R262). -/
def resOp (b : BitVec 3) (o : Byte) : Byte := o &&& ~~~(1#8 <<< b.toNat)

/-- `SET` (R263). -/
def setOp (b : BitVec 3) (o : Byte) : Byte := o ||| (1#8 <<< b.toNat)

end Sys2Proof.Machine
end

