-- ==== Sys2Proof/Config.lean ====
section
/-! DEFINITION. What a particular gbemu CORE fixes: the parameters of rule R6 as plain data with their defaults, and the
free values of the spec (values it leaves open), each an opaque constant without a body. -/

namespace Sys2Proof

/-- `SCHED` (R400, R402, D36): any interleaving of atomic actions, or the reference schedule. -/
inductive Sched where
  | free
  | lockstep
  deriving DecidableEq, Repr

/-- `HALT_WAKE` (R308, D11): what wakes a halted CPU. -/
inductive HaltWake where
  | latch
  | pending
  deriving DecidableEq, Repr

/-- `UNUSED_IO_BITS` (R34, D20): what an unimplemented I/O bit reads as. -/
inductive UnusedIoBits where
  | any
  | ones
  deriving DecidableEq, Repr

/-- `Cart` (R66, D38): the flat cartridge, or any other answerer of the four operations. -/
inductive CartKind where
  | flat
  | external
  deriving DecidableEq, Repr

/-- `PHASE_BUDGET` (R344, D24), in machine cycles. -/
structure PhaseBudget where
  oamSearch     : Nat
  pixelTransfer : Nat
  hBlank        : Nat
  vBlankLine    : Nat
  deriving DecidableEq, Repr

/-- One RGB triple of `SHADE_RGB` (R343). -/
structure Rgb where
  red   : Byte
  green : Byte
  blue  : Byte
  deriving DecidableEq, Repr

/-- `SHADE_RGB` (R343, D34): the triples of shades 0 to 3. -/
structure ShadeRgb where
  shade0 : Rgb
  shade1 : Rgb
  shade2 : Rgb
  shade3 : Rgb
  deriving DecidableEq, Repr

/-- The parameters of rule R6 that are values (`RESET` is `State.reset` or a launch record, `Joypad` is state). -/
structure Params where
  /-- `EI_DELAY = 1` (D10). -/
  eiDelay : Bool
  haltWake : HaltWake
  intDispatchCycles : Nat
  unusedIoBits : UnusedIoBits
  divFreeRunning : Bool
  ppuVblankStatInt : Bool
  shadeRgb : ShadeRgb
  sched : Sched
  cart : CartKind
  phaseBudget : PhaseBudget
  deriving DecidableEq, Repr

/-- The defaults of rule R6. -/
def Params.default : Params where
  eiDelay := true
  haltWake := .latch
  intDispatchCycles := 0
  unusedIoBits := .any
  divFreeRunning := false
  ppuVblankStatInt := false
  shadeRgb := ⟨⟨255, 255, 255⟩, ⟨170, 170, 170⟩, ⟨85, 85, 85⟩, ⟨0, 0, 0⟩⟩
  sched := .free
  cart := .flat
  phaseBudget := ⟨20, 43, 51, 114⟩

/-- FREE VALUE. The byte an unspecified storage cell holds at launch (R50, R421: "any value, fixed at launch"). The
argument is the cell's bus address. Log entry 1. -/
opaque Config.launchByte : Nat → BitVec 8

/-- FREE VALUE. The shade a framebuffer cell (line, column) holds at launch (R342, R421). Log entry 2. -/
opaque Config.launchShade : Nat → Nat → BitVec 2

/-- FREE VALUE. The n-th draw for the unimplemented I/O bits under `UNUSED_IO_BITS = any` (R34, R73). Log entry 3. -/
opaque Config.freeBits : Nat → BitVec 8

/-- FREE VALUE. `Cart.read_rom` of a cartridge that is not the flat one: a function of the writes it has received,
newest first, and of the address (R66). Log entry 4. -/
opaque Config.cartReadRom : List (Nat × BitVec 8) → Nat → BitVec 8

/-- FREE VALUE. `Cart.read_ram` of a cartridge that is not the flat one (R66). Log entry 4. -/
opaque Config.cartReadRam : List (Nat × BitVec 8) → Nat → BitVec 8

end Sys2Proof
end

