-- ==== Sys2Proof/Machine/State.lean ====
section
/-! DEFINITION. The state of gbemu CORE as plain data (10_state.md), the reasons a step can stop, and the state at launch. -/

namespace Sys2Proof.Machine

/-- The CPU's registers (R20, R25, R26). `f` is the flag byte, its low nibble zero (R24). -/
structure Regs where
  a : Byte
  f : Byte
  b : Byte
  c : Byte
  d : Byte
  e : Byte
  h : Byte
  l : Byte
  sp : Word
  pc : Word
  deriving DecidableEq, Repr

/-- The value of `cpu_fault` (R30, R320): one of the four fatal faults with its recorded context. -/
inductive CpuFault where
  /-- One of the 11 undefined primary opcodes was decoded (R321). -/
  | illegalOpcode (pc : Word) (op : Byte)
  /-- `DAA` met a key in no row of its table (R322). -/
  | daaTableMiss (pc : Word) (a f : Byte)
  /-- The bytes of the instruction run past `0xFFFF` (R323). -/
  | decodeOutOfBounds (pc : Word)
  /-- `STOP` was executed (R324). -/
  | stopUnimplemented (pc : Word)
  deriving DecidableEq, Repr

/-- Where in its iteration the CPU stands between two steps (R300): at step 1, or, having parked at step 3, before
step 4. -/
inductive CpuPos where
  | top
  | decode
  deriving DecidableEq, Repr

/-- The designated I/O registers at their stored widths (R35 to R48), and `IE` (R40). -/
structure IoRegs where
  /-- `P1` bits 5:4: bit 1 is `SEL_BUTTONS`, bit 0 is `SEL_DPAD`; 0 selects. -/
  p1Sel : BitVec 2
  tima : Byte
  tma : Byte
  tac : BitVec 3
  /-- `IF` bits 4:0. -/
  ifr : BitVec 5
  lcdc : Byte
  /-- `STAT` bits 6:0. -/
  stat : BitVec 7
  scy : Byte
  scx : Byte
  ly : Byte
  lyc : Byte
  bgp : Byte
  obp0 : Byte
  obp1 : Byte
  wy : Byte
  wx : Byte
  ie : Byte
  deriving DecidableEq, Repr

/-- One entry of `line_objects` (R341): an object of OAM and its index. -/
structure ObjEntry where
  y : Byte
  x : Byte
  tile : Byte
  flags : Byte
  index : Nat
  deriving DecidableEq, Repr

/-- The registers the PPU reads once per line at pixel-transfer (R350), as read. -/
structure LineRegs where
  lcdc : Byte
  scy : Byte
  scx : Byte
  wy : Byte
  wx : Byte
  bgp : Byte
  obp0 : Byte
  obp1 : Byte
  ly : Byte
  deriving DecidableEq, Repr

/-- The names of `LineRegs`, in the order of R350. -/
inductive LineReg where
  | lcdc | scy | scx | wy | wx | bgp | obp0 | obp1 | ly
  deriving DecidableEq, Repr

/-- The atomic actions of OAM-search still to come (R345 to R349); `hold` is the rest of the phase's budget. -/
inductive OamPos where
  | start | readStat | raise | fire | readLcdc | readLy | snapshot | hold
  deriving DecidableEq, Repr

/-- The atomic actions of pixel-transfer (R350). -/
inductive XferPos where
  | start
  | latch (r : LineReg)
  | vram
  | write
  | hold
  deriving DecidableEq, Repr

/-- The atomic actions of HBlank (R362 to R364). -/
inductive HbPos where
  | start | readStat | readLy | readLyc | raise | fire | hold
  | incLy | coinLy | coinLyc | coinSet
  deriving DecidableEq, Repr

/-- The atomic actions of VBlank: its entry (R365) and its line-equivalents (R366). -/
inductive VbPos where
  | start | raise | fire | readStat | raiseStat | fireStat
  | lineStart | hold
  | readLy | stepLy | coinLy | coinLyc | coinSet
  deriving DecidableEq, Repr

/-- `ppu_phase` (R52, R341), with the position inside the phase. -/
inductive PpuPos where
  | oamSearch (p : OamPos)
  | pixelTransfer (p : XferPos)
  | hBlank (p : HbPos)
  | vBlank (p : VbPos)
  deriving DecidableEq, Repr

/-- The PPU's own state (R52, R341). -/
structure Ppu where
  pos : PpuPos
  vblankLine : Nat
  windowLine : Nat
  /-- In paint order: the last element has the highest priority (R349). -/
  lineObjects : List ObjEntry
  /-- `ppu_dot`: the cycles spent in the current phase. -/
  dot : Nat
  /-- `ppu_parked` (R31). -/
  parked : Bool
  /-- `LCDC.OBJ_SIZE` as OAM-search of this line read it (R348, R360). -/
  tall : Bool
  lineRegs : LineRegs
  /-- The composed line between the PPU's read of VRAM and its write of the framebuffer (R350). -/
  line : List Shade
  /-- `STAT`, `LY` and `LYC` as the current action sequence read them (R362, R364, R366). -/
  seenStat : Byte
  seenLy : Byte
  seenLyc : Byte
  deriving DecidableEq, Repr

/-- The Timer agent's position (R391 to R393): blocked, woken, counting, or inside `IncrementTIMA`. -/
inductive TimerPos where
  | blocked
  | woken
  | counting
  | addTima
  | readTma
  | storeTima (v : Byte)
  | raise
  | fire
  deriving DecidableEq, Repr

/-- The Timer's own state (R52, R391), and the count toward the next increment of `DIV` (R394). -/
structure Timer where
  pos : TimerPos
  /-- `timer_div`. -/
  div : Nat
  /-- `timer_parked` (R31). -/
  parked : Bool
  divCount : Nat
  deriving DecidableEq, Repr

/-- The eight keys behind `P1` (R35). -/
inductive Key where
  | right | left | up | down | a | b | select | start
  deriving DecidableEq, Repr

/-- `Joypad` (R6, R35): which keys are down. -/
structure Joypad where
  right : Bool
  left : Bool
  up : Bool
  down : Bool
  a : Bool
  b : Bool
  select : Bool
  start : Bool
  deriving DecidableEq, Repr

/-- What the host can do to the machine: `Pause` and `Resume` (R408), the change of a key in the `Joypad` state (R81,
R306), the request of the serial source (R306), the next action of a `RaiseInt` under way (R304), and a write to `TAC`
(R391). Log entries 17 and 29. -/
inductive HostAction where
  | pause
  | resume
  | key (k : Key) (down : Bool)
  | raiseSerial
  | proceed
  | writeTac (v : Byte)
  deriving DecidableEq, Repr

/-- Where the host stands in a `RaiseInt` (R304): in none; a key has gone down and the `IoOr` on `IF` bit 4 is to come
(R306); the `IoOr` is done and the latch fire is to come. Log entry 17. -/
inductive HostPos where
  | idle
  | orJoypad
  | fire
  deriving DecidableEq, Repr

/-- One atomic action of one agent, in the order in which the agents move (R400). -/
inductive Turn where
  | cpu
  | ppu
  | timer
  | div
  | host (h : HostAction)
  deriving DecidableEq, Repr

/-- The storage cells that have been written or supplied, by bus address: flat cartridge ROM, VRAM, WRAM, OAM, plain I/O
bytes and HRAM. A cell that is not listed holds its launch content (log entry 1). -/
abbrev Memory := List Host.Cell

structure State where
  regs : Regs
  /-- `IME` (R27). -/
  ime : Bool
  /-- `ime_delay` (R28). -/
  imeDelay : Nat
  halted : Bool
  cpuFault : Option CpuFault
  /-- `cpu_parked` (R31). -/
  cpuParked : Bool
  cpuPos : CpuPos
  /-- The cycle counter (R32), unbounded. -/
  cycles : Nat
  mem : Memory
  io : IoRegs
  /-- The interrupt-received latch (R51). -/
  irqLatch : Bool
  /-- The timer-enable latch (R51). -/
  timerEnableLatch : Bool
  timer : Timer
  ppu : Ppu
  /-- The lines written so far, by line number, each of 160 shades (R343). -/
  framebuffer : List (Nat × List Shade)
  /-- The shared `step_mode` flag (R31, R408). -/
  stepMode : Bool
  joypad : Joypad
  /-- MODEL: where the host stands in its `RaiseInt` (R304). Log entry 17. -/
  hostPos : HostPos
  /-- The writes a cartridge that is not the flat one has received, newest first (R66). -/
  cartLog : List (Nat × Byte)
  /-- MODEL: the atomic actions to come, in order (R400); after them the reference schedule goes on. Log entry 6. -/
  turns : List Turn
  /-- MODEL: how many bus reads the CPU has made: the index of the next free value. Log entry 3. -/
  draws : Nat
  /-- The parameters (R6); no step changes them. -/
  params : Params
  deriving DecidableEq, Repr

/-- Reasons for `Outcome.fault`. There are none, and no constructor: the four fatal faults of R320 are values of
`cpu_fault`, an effect of the spec after which the PPU and the Timer keep running, so a step that raises one answers a
next state (log entry 7). -/
inductive Fault where
  deriving DecidableEq, Repr

/-- Reasons for `Outcome.refused`. -/
inductive Refusal where
  /-- Raised by `exec` for an instruction without a meaning; no arm of this model raises it. Safe. -/
  | notModelled (mnemonic : String)
  /-- Raised by `launch` for a launch record that breaks an invariant of the state (R424, U24). Safe. -/
  | launchRecord
  deriving DecidableEq, Repr

/-- The designated registers at launch (R48, R421). `OBP0` and `OBP1` are unspecified: a free byte (log entry 8). -/
def IoRegs.reset : IoRegs where
  p1Sel := 0
  tima := 0
  tma := 0
  tac := 0
  ifr := 1
  lcdc := 0x91
  stat := 5
  scy := 0
  scx := 0
  ly := 0
  lyc := 0
  bgp := 0xFC
  obp0 := Config.launchByte 0xFF48
  obp1 := Config.launchByte 0xFF49
  wy := 0
  wx := 0
  ie := 0

/-- The launch state (R50, R421, R422) under the default parameters. -/
def State.reset : State where
  regs := { a := 0x01, f := 0xB0, b := 0x00, c := 0x13, d := 0x00, e := 0xD8, h := 0x01, l := 0x4D,
            sp := 0xFFFE, pc := 0x0100 }
  ime := false
  imeDelay := 0
  halted := false
  cpuFault := none
  cpuParked := false
  cpuPos := .top
  cycles := 0
  mem := []
  io := IoRegs.reset
  irqLatch := false
  timerEnableLatch := false
  timer := { pos := .blocked, div := 0, parked := false, divCount := 0 }
  ppu := { pos := .oamSearch .start, vblankLine := 0, windowLine := 0, lineObjects := [], dot := 0, parked := false,
           tall := false, lineRegs := ⟨0, 0, 0, 0, 0, 0, 0, 0, 0⟩, line := [], seenStat := 0, seenLy := 0, seenLyc := 0 }
  framebuffer := []
  stepMode := false
  joypad := ⟨false, false, false, false, false, false, false, false⟩
  hostPos := .idle
  cartLog := []
  turns := []
  draws := 0
  params := Params.default

end Sys2Proof.Machine
end

