-- ==== Sys2Proof/Machine/Memory.lean ====
section
/-! DEFINITION. Lists of key and value pairs in one canonical form, and the storage cells of the Bus (R33, R62). -/

namespace Sys2Proof.Machine

/-! ## Lists by rising key -/

/-- The value listed under a key. -/
def listGet {α : Type} (k : Nat) : List (Nat × α) → Option α
  | [] => none
  | (k', v) :: r => if k = k' then some v else listGet k r

/-- List a value under a key, keeping the keys strictly rising. -/
def listSet {α : Type} (k : Nat) (v : α) : List (Nat × α) → List (Nat × α)
  | [] => [(k, v)]
  | (k', v') :: r =>
    if k < k' then (k, v) :: (k', v') :: r
    else if k = k' then (k, v) :: r
    else (k', v') :: listSet k v r

/-- The keys are strictly rising: the canonical form. -/
def rising {α : Type} : List (Nat × α) → Bool
  | [] => true
  | (k, _) :: r => r.all (fun e => decide (k < e.1)) && rising r

/-! ## The designated addresses -/

/-- The designated I/O registers, and `IE` (R34, R40). -/
inductive IoName where
  | p1 | tima | tma | tac | ifr | lcdc | stat | scy | scx | ly | lyc | bgp | obp0 | obp1 | wy | wx | ie
  deriving DecidableEq, Repr

/-- The address of a designated register (R48). -/
def IoName.addr : IoName → Nat
  | .p1 => 0xFF00
  | .tima => 0xFF05
  | .tma => 0xFF06
  | .tac => 0xFF07
  | .ifr => 0xFF0F
  | .lcdc => 0xFF40
  | .stat => 0xFF41
  | .scy => 0xFF42
  | .scx => 0xFF43
  | .ly => 0xFF44
  | .lyc => 0xFF45
  | .bgp => 0xFF47
  | .obp0 => 0xFF48
  | .obp1 => 0xFF49
  | .wy => 0xFF4A
  | .wx => 0xFF4B
  | .ie => 0xFFFF

def IoName.all : List IoName :=
  [.p1, .tima, .tma, .tac, .ifr, .lcdc, .stat, .scy, .scx, .ly, .lyc, .bgp, .obp0, .obp1, .wy, .wx, .ie]

/-- The designated register at an address, if there is one (R48, R49). -/
def ioName (a : Nat) : Option IoName := IoName.all.find? (fun n => n.addr == a)

/-! ## Storage cells -/

/-- The addresses that are cells of storage: flat cartridge ROM, VRAM, WRAM, OAM, undesignated I/O bytes, HRAM
(R33, R49, R66). The alias window, the reserved window and the designated registers are none. -/
def isCell (a : Nat) : Bool :=
  a < 0x8000 || (0x8000 ≤ a && a < 0xA000) || (0xC000 ≤ a && a < 0xE000) || (0xFE00 ≤ a && a < 0xFEA0)
    || (0xFF00 ≤ a && a < 0xFF80 && (ioName a).isNone) || (0xFF80 ≤ a && a < 0xFFFF)

/-- The canonical form of the memory: strictly rising addresses, each a storage cell. An unlisted cell holds no value of
the list's, so no entry can repeat it. -/
def Memory.wf (m : Memory) : Bool := rising m && m.all (fun e => isCell e.1)

/-- The byte of a storage cell; a cell nothing has written holds its launch content, a free value (R50, R421). -/
def State.cell (s : State) (k : Nat) : Byte := (listGet k s.mem).getD (Config.launchByte k)

/-- Write a storage cell. -/
def State.setCell (k : Nat) (v : Byte) (s : State) : State := { s with mem := listSet k v s.mem }

end Sys2Proof.Machine
end

