-- ==== Sys2Proof/Machine/Io.lean ====
section
/-! DEFINITION. The I/O register file: what each designated register stores (R35 to R48), the five atomic primitives
(R72), the latches and the raising of an interrupt (R304, R405). -/

namespace Sys2Proof.Machine

/-! ## Registers as bytes -/

/-- The stored bits of a designated register in their places; unimplemented and input bits are 0. -/
def IoRegs.get (io : IoRegs) : IoName → Byte
  | .p1 => io.p1Sel.setWidth 8 <<< 4
  | .tima => io.tima
  | .tma => io.tma
  | .tac => io.tac.setWidth 8
  | .ifr => io.ifr.setWidth 8
  | .lcdc => io.lcdc
  | .stat => io.stat.setWidth 8
  | .scy => io.scy
  | .scx => io.scx
  | .ly => io.ly
  | .lyc => io.lyc
  | .bgp => io.bgp
  | .obp0 => io.obp0
  | .obp1 => io.obp1
  | .wy => io.wy
  | .wx => io.wx
  | .ie => io.ie

/-- Store into all the stored bits of a designated register. -/
def IoRegs.put (io : IoRegs) (n : IoName) (v : Byte) : IoRegs :=
  match n with
  | .p1 => { io with p1Sel := v.extractLsb' 4 2 }
  | .tima => { io with tima := v }
  | .tma => { io with tma := v }
  | .tac => { io with tac := v.extractLsb' 0 3 }
  | .ifr => { io with ifr := v.extractLsb' 0 5 }
  | .lcdc => { io with lcdc := v }
  | .stat => { io with stat := v.extractLsb' 0 7 }
  | .scy => { io with scy := v }
  | .scx => { io with scx := v }
  | .ly => { io with ly := v }
  | .lyc => { io with lyc := v }
  | .bgp => { io with bgp := v }
  | .obp0 => { io with obp0 := v }
  | .obp1 => { io with obp1 := v }
  | .wy => { io with wy := v }
  | .wx => { io with wx := v }
  | .ie => { io with ie := v }

/-- The unimplemented bits of a designated register (R35, R38, R39, R42; U12). -/
def IoName.unimplemented : IoName → Byte
  | .p1 => 0xC0
  | .tac => 0xF8
  | .ifr => 0xE0
  | .stat => 0x80
  | _ => 0

/-- `STAT.MODE` (R42). -/
def IoRegs.mode (io : IoRegs) : BitVec 2 := io.stat.extractLsb' 0 2

/-- `STAT.COINCIDENCE` (R42). -/
def IoRegs.coincidence (io : IoRegs) : Bool := io.stat.getLsbD 2

/-- `TAC.ENABLE` (R38). -/
def IoRegs.timerEnable (io : IoRegs) : Bool := io.tac.getLsbD 2

/-! ## The atomic primitives (R72) -/

def IoName.at (n : IoName) : Word := BitVec.ofNat 16 n.addr

/-- The stored bits at an address of the register file. -/
def State.ioLoad (s : State) (a : Word) : Byte :=
  match ioName a.toNat with
  | some n => s.io.get n
  | none => s.cell a.toNat

/-- `IoStore(a, v)` (R72): the engines' store, which bypasses what a CPU write is denied. -/
def State.ioStore (a : Word) (v : Byte) (s : State) : State :=
  match ioName a.toNat with
  | some n => { s with io := s.io.put n v }
  | none => s.setCell a.toNat v

/-- `IoAnd(a, m)` (R72). -/
def State.ioAnd (a : Word) (m : Byte) (s : State) : State := s.ioStore a (s.ioLoad a &&& m)

/-- `IoOr(a, m)` (R72). -/
def State.ioOr (a : Word) (m : Byte) (s : State) : State := s.ioStore a (s.ioLoad a ||| m)

/-- `IoXor(a, m)` (R72). -/
def State.ioXor (a : Word) (m : Byte) (s : State) : State := s.ioStore a (s.ioLoad a ^^^ m)

/-- `IoAdd(a, k)` (R72): wraps modulo 256. -/
def State.ioAdd (a : Word) (k : Byte) (s : State) : State := s.ioStore a (s.ioLoad a + k)

/-- Whether `IoAdd(a, k)` wraps (R72). -/
def State.ioAddWraps (s : State) (a : Word) (k : Byte) : Bool := decide (255 < (s.ioLoad a).toNat + k.toNat)

/-! ## Interrupt requests -/

/-- The mask of source `i` in `IF` and `IE` (R303). -/
def intMask (i : Nat) : Byte := 1#8 <<< i

/-- First action of `RaiseInt(i)` (R304): `IoOr(0xFF0F, 1 << i)`. -/
def State.raiseIf (i : Nat) (s : State) : State := s.ioOr 0xFF0F#16 (intMask i)

/-- Second action of `RaiseInt(i)` (R304): fire the interrupt-received latch. -/
def State.fireIrq (s : State) : State := { s with irqLatch := true }

/-- `IF & IE & 0x1F`, the pending and enabled requests (R307), on the stored bits. -/
def State.requests (s : State) : Byte := s.io.ifr.setWidth 8 &&& s.io.ie &&& 0x1F

end Sys2Proof.Machine
end

