-- ==== Sys2Proof/Machine/Bus.lean ====
section
/-! DEFINITION. The Bus: routing of an address (R62), one byte read and one byte write (R61, R69, R73). -/

namespace Sys2Proof.Machine

/-- The regions of the routing table (R62). -/
inductive Region where
  | cartRom | vram | cartRam | wram | wramAlias | oam | reserved | io | hram | ie
  deriving DecidableEq, Repr

/-- Routing (R62). -/
def region (a : Word) : Region :=
  if a.toNat < 0x8000 then .cartRom
  else if a.toNat < 0xA000 then .vram
  else if a.toNat < 0xC000 then .cartRam
  else if a.toNat < 0xE000 then .wram
  else if a.toNat < 0xFE00 then .wramAlias
  else if a.toNat < 0xFEA0 then .oam
  else if a.toNat < 0xFF00 then .reserved
  else if a.toNat < 0xFF80 then .io
  else if a.toNat < 0xFFFF then .hram
  else .ie

/-- The key of the storage an address reaches: an alias address reaches work RAM (R62). -/
def storageKey (a : Word) : Nat :=
  match region a with
  | .wramAlias => a.toNat - 0x2000
  | _ => a.toNat

/-! ## Reading -/

/-- `P1` bits 3:0 (R35): active low, a bit is 0 when a selected line's key is down. -/
def State.keyLines (s : State) : Byte :=
  let dpad := s.io.p1Sel.getLsbD 0 == false
  let buttons := s.io.p1Sel.getLsbD 1 == false
  let line (d b : Bool) (m : Byte) : Byte := if (dpad && d) || (buttons && b) then 0 else m
  line s.joypad.right s.joypad.a 1 ||| line s.joypad.left s.joypad.b 2 ||| line s.joypad.up s.joypad.select 4
    ||| line s.joypad.down s.joypad.start 8

/-- What the implemented bits of a designated register read as (R69). -/
def State.ioImplemented (s : State) (n : IoName) : Byte :=
  match n with
  | .p1 => s.io.get .p1 ||| s.keyLines
  | n => s.io.get n

/-- The byte a bus read returns with every unimplemented bit taken as 0 (R62 to R66, R69). -/
def State.stored (s : State) (a : Word) : Byte :=
  match region a with
  | .cartRom =>
    match s.params.cart with
    | .flat => s.cell a.toNat
    | .external => Config.cartReadRom s.cartLog a.toNat
  | .cartRam =>
    match s.params.cart with
    | .flat => 0xFF
    | .external => Config.cartReadRam s.cartLog a.toNat
  | .reserved => 0xFF
  | .io =>
    match ioName a.toNat with
    | some n => s.ioImplemented n
    | none => s.cell a.toNat
  | .ie => s.io.ie
  | .vram | .wram | .oam | .hram => s.cell a.toNat
  | .wramAlias => s.cell (a.toNat - 0x2000)

/-- The bits at an address that no storage and no input is behind (U12). -/
def unimplementedAt (a : Word) : Byte :=
  match region a with
  | .io => ((ioName a.toNat).map IoName.unimplemented).getD 0
  | _ => 0

/-- What the unimplemented bits read as now (R34): ones, or the current free value. -/
def State.unusedBits (s : State) : Byte :=
  match s.params.unusedIoBits with
  | .ones => 0xFF
  | .any => Config.freeBits s.draws

/-- The byte a bus read returns now. -/
def State.peek (s : State) (a : Word) : Byte :=
  if unimplementedAt a = 0 then s.stored a else s.stored a ||| (s.unusedBits &&& unimplementedAt a)

/-! ## Writing -/

/-- A bus write to a designated I/O register: the writable bits and the side effects of R35 to R47 (R69, R73). -/
def State.pokeIo (n : IoName) (v : Byte) (s : State) : State :=
  match n with
  | .tac => { s with io := s.io.put .tac v, timerEnableLatch := s.timerEnableLatch || bit v 2 }
  | .ifr => { s with io := s.io.put .ifr v, irqLatch := s.irqLatch || (v &&& 0x1F) != 0 }
  | .stat => { s with io := s.io.put .stat ((v &&& 0x78) ||| (s.io.get .stat &&& 0x07)) }
  | .ly => s
  | n => { s with io := s.io.put n v }

/-- A write to a cartridge window (R64, R66): the flat cartridge ignores it, any other one is told of it. -/
def State.cartWrite (a : Word) (v : Byte) (s : State) : State :=
  match s.params.cart with
  | .flat => s
  | .external => { s with cartLog := (a.toNat, v) :: s.cartLog }

/-- One bus write (R61, R62). -/
def State.poke (a : Word) (v : Byte) (s : State) : State :=
  match region a with
  | .cartRom | .cartRam => s.cartWrite a v
  | .reserved => s
  | .io =>
    match ioName a.toNat with
    | some n => s.pokeIo n v
    | none =>
      if a.toNat = 0xFF04 ∧ s.params.divFreeRunning = true then s.setCell 0xFF04 0 else s.setCell a.toNat v
  | .ie => { s with io := s.io.put .ie v }
  | .vram | .wram | .oam | .hram => s.setCell a.toNat v
  | .wramAlias => s.setCell (a.toNat - 0x2000) v

end Sys2Proof.Machine
end

