-- ==== Sys2Proof/Machine/Pixels.lean ====
section
/-! DEFINITION. What one line of the picture is made of: the selection and ordering of objects (R347 to R349) and the
composition of the 160 columns (R351 to R361), as functions of what the PPU has read. -/

namespace Sys2Proof.Machine

/-! ## Objects of a line -/

/-- The object height `h` (R348). -/
def objHeight (tall : Bool) : Nat := if tall then 16 else 8

/-- Entry `k` of OAM (R347), read through `rd`. -/
def objEntry (rd : Nat → Byte) (k : Nat) : ObjEntry where
  y := rd (0xFE00 + 4 * k)
  x := rd (0xFE00 + 4 * k + 1)
  tile := rd (0xFE00 + 4 * k + 2)
  flags := rd (0xFE00 + 4 * k + 3)
  index := k

/-- Whether an entry covers the line `ly` (R348). -/
def ObjEntry.coversLine (o : ObjEntry) (tall : Bool) (ly : Byte) : Bool :=
  o.y.toNat ≤ ly.toNat + 16 && ly.toNat + 16 < o.y.toNat + objHeight tall

/-- Priority order (R349): smaller `x`, then smaller index. -/
def ObjEntry.before (o p : ObjEntry) : Bool := o.x.toNat < p.x.toNat || (o.x == p.x && o.index < p.index)

/-- Insert into a list in priority order. -/
def insertObj (o : ObjEntry) : List ObjEntry → List ObjEntry
  | [] => [o]
  | p :: r => if o.before p then o :: p :: r else p :: insertObj o r

/-- Sort by priority. -/
def sortObjs : List ObjEntry → List ObjEntry
  | [] => []
  | o :: r => insertObj o (sortObjs r)

/-- The first 10 covering entries in index order (R348). -/
def selectObjs (rd : Nat → Byte) (tall : Bool) (ly : Byte) : List ObjEntry :=
  (((List.range 40).map (objEntry rd)).filter (fun o => o.coversLine tall ly)).take 10

/-- `line_objects` in paint order: the highest priority last (R349). -/
def lineObjects (rd : Nat → Byte) (tall : Bool) (ly : Byte) : List ObjEntry :=
  (sortObjs (selectObjs rd tall ly)).reverse

/-! ## Tiles and layers -/

/-- `reg[2i+1:2i]` (R46, R361). -/
def paletteShade (reg : Byte) (i : BitVec 2) : Shade := reg.extractLsb' (2 * i.toNat) 2

/-- `TilePixel(addr, fy, fx)` (R355). -/
def tilePixel (rd : Nat → Byte) (addr fy fx : Nat) : BitVec 2 :=
  BitVec.ofBool (bit (rd (addr + 2 * fy + 1)) (7 - fx)) ++ BitVec.ofBool (bit (rd (addr + 2 * fy)) (7 - fx))

/-- `TileAddr(idx)` of the background and the window (R356). -/
def tileAddr (lcdc idx : Byte) : Nat :=
  if bit lcdc 4 then 0x8000 + 16 * idx.toNat else 0x8800 + 16 * ((idx.toNat + 128) % 256)

/-- A tile map's base address by its select bit (R354). -/
def tileMap (sel : Bool) : Nat := if sel then 0x9C00 else 0x9800

/-- `BackgroundColour(col)` (R352). -/
def backgroundColour (rd : Nat → Byte) (r : LineRegs) (col : Nat) : BitVec 2 :=
  if bit r.lcdc 0 then
    let px := (r.scx.toNat + col) % 256
    let py := (r.scy.toNat + r.ly.toNat) % 256
    let idx := rd (tileMap (bit r.lcdc 3) + 32 * (py / 8) + px / 8)
    tilePixel rd (tileAddr r.lcdc idx) (py % 8) (px % 8)
  else 0

/-- `WindowCovers(col)` (R357). -/
def windowCovers (r : LineRegs) (col : Nat) : Bool :=
  bit r.lcdc 5 && bit r.lcdc 0 && r.wy.toNat ≤ r.ly.toNat && r.wx.toNat ≤ col + 7

/-- `WindowColour(col)` (R357); `wy` is the window line counter. -/
def windowColour (rd : Nat → Byte) (r : LineRegs) (wy col : Nat) : BitVec 2 :=
  let wx := col + 7 - r.wx.toNat
  let idx := rd (tileMap (bit r.lcdc 6) + 32 * (wy / 8) + wx / 8)
  tilePixel rd (tileAddr r.lcdc idx) (wy % 8) (wx % 8)

/-- `bgc` (R351): the colour index of the background-or-window layer. -/
def layerColour (rd : Nat → Byte) (r : LineRegs) (wy col : Nat) : BitVec 2 :=
  if windowCovers r col then windowColour rd r wy col else backgroundColour rd r col

/-! ## Objects over the layer -/

/-- Whether an object covers a column (R359). -/
def ObjEntry.coversCol (o : ObjEntry) (col : Nat) : Bool :=
  o.x.toNat ≤ col + 8 && col + 8 < o.x.toNat + 8

/-- `ObjectColour(o, col)` (R360). -/
def objectColour (rd : Nat → Byte) (tall : Bool) (ly : Byte) (o : ObjEntry) (col : Nat) : BitVec 2 :=
  let h := objHeight tall
  let row0 := ly.toNat + 16 - o.y.toNat
  let row := if bit o.flags 6 then h - 1 - row0 else row0
  let fx0 := col + 8 - o.x.toNat
  let fx := if bit o.flags 5 then 7 - fx0 else fx0
  if tall then tilePixel rd (0x8000 + 16 * ((o.tile &&& 0xFE).toNat + row / 8)) (row % 8) fx
  else tilePixel rd (0x8000 + 16 * o.tile.toNat) row fx

/-- Paint one object over a column (R351, R359). -/
def paintObject (rd : Nat → Byte) (r : LineRegs) (tall : Bool) (bgc : BitVec 2) (col : Nat) (shade : Shade)
    (o : ObjEntry) : Shade :=
  if bit r.lcdc 1 && o.coversCol col then
    let c := objectColour rd tall r.ly o col
    if c != 0 && !(bit o.flags 7 && bgc != 0) then
      paletteShade (if bit o.flags 4 then r.obp1 else r.obp0) c
    else shade
  else shade

/-- The shade of one column (R351, R353). -/
def composeColumn (rd : Nat → Byte) (r : LineRegs) (tall : Bool) (objs : List ObjEntry) (wy col : Nat) : Shade :=
  if bit r.lcdc 7 then
    let bgc := layerColour rd r wy col
    objs.foldl (paintObject rd r tall bgc col) (paletteShade r.bgp bgc)
  else 0

/-- The 160 shades of a line (R351). -/
def composeLine (rd : Nat → Byte) (r : LineRegs) (tall : Bool) (objs : List ObjEntry) (wy : Nat) : List Shade :=
  (List.range 160).map (composeColumn rd r tall objs wy)

/-- Whether the window was drawn in at least one column (R358); never on a line with the LCD off (R353). -/
def windowDrawn (r : LineRegs) : Bool := bit r.lcdc 7 && (List.range 160).any (windowCovers r)

end Sys2Proof.Machine
end

