-- ==== Sys2Proof/Machine/Ppu.lean ====
section
/-! DEFINITION. The PPU agent (61_ppu.md): its atomic actions in program order (R345 to R366, R344), and the framebuffer
(R343). `ppuAction` is one turn of the agent; a hold and a phase boundary are turns without a bus action. -/

namespace Sys2Proof.Machine

/-! ## Phases -/

/-- `ppu_phase` (R341). -/
inductive PpuPhase where
  | oamSearch | pixelTransfer | hBlank | vBlank
  deriving DecidableEq, Repr

def PpuPos.phase : PpuPos → PpuPhase
  | .oamSearch _ => .oamSearch
  | .pixelTransfer _ => .pixelTransfer
  | .hBlank _ => .hBlank
  | .vBlank _ => .vBlank

/-- The value of `STAT.MODE` in a phase (R42). -/
def PpuPhase.mode : PpuPhase → Byte
  | .oamSearch => 2
  | .pixelTransfer => 3
  | .hBlank => 0
  | .vBlank => 1

/-- The PPU holds the rest of its phase budget. -/
def PpuPos.isHold : PpuPos → Bool
  | .oamSearch .hold => true
  | .pixelTransfer .hold => true
  | .hBlank .hold => true
  | .vBlank .hold => true
  | _ => false

/-- A phase boundary, where the PPU parks: the phase's start action is still to come (R368, R408). MODEL: each
line-equivalent of VBlank counts as a phase here, as it does in R402, although R341 makes VBlank one phase; the boundary
of the first one comes right after the entry actions of R365 (log entry 30). -/
def PpuPos.isBoundary : PpuPos → Bool
  | .oamSearch .start => true
  | .pixelTransfer .start => true
  | .hBlank .start => true
  | .vBlank .start => true
  | .vBlank .lineStart => true
  | _ => false

/-- `PHASE_BUDGET` of the current phase (R344). -/
def State.ppuBudget (s : State) : Nat :=
  match s.ppu.pos.phase with
  | .oamSearch => s.params.phaseBudget.oamSearch
  | .pixelTransfer => s.params.phaseBudget.pixelTransfer
  | .hBlank => s.params.phaseBudget.hBlank
  | .vBlank => s.params.phaseBudget.vBlankLine

/-! ## Small steps of the agent -/

/-- Move the PPU to a position. -/
def State.ppuGo (pos : PpuPos) (s : State) : State := { s with ppu := { s.ppu with pos := pos } }

/-- Leave the hold of a phase: `ppu_dot` becomes 0 (R402). MODEL: so also where a turn of the free schedule ends the hold
before its budget, a point the spec leaves open (R344, log entry 34). -/
def State.ppuEndHold (pos : PpuPos) (s : State) : State := { s with ppu := { s.ppu with dot := 0, pos := pos } }

/-- Change the `MODE` field as one atomic `IoXor(0xFF41, old ^ new)` (R344); the PPU is the field's only writer. -/
def State.setMode (m : Byte) (s : State) : State :=
  s.ioXor 0xFF41#16 ((s.io.mode.setWidth 8 ^^^ m) &&& 0x03)

/-- Set `STAT.COINCIDENCE` as one atomic `IoOr` or `IoAnd` (R364). -/
def State.setCoincidence (c : Bool) (s : State) : State :=
  if c then s.ioOr 0xFF41#16 0x04 else s.ioAnd 0xFF41#16 (~~~0x04#8)

def State.seeStat (s : State) : State := { s with ppu := { s.ppu with seenStat := s.ioLoad 0xFF41#16 } }
def State.seeLy (s : State) : State := { s with ppu := { s.ppu with seenLy := s.ioLoad 0xFF44#16 } }
def State.seeLyc (s : State) : State := { s with ppu := { s.ppu with seenLyc := s.ioLoad 0xFF45#16 } }

/-- The register behind a name of `LineRegs`. -/
def LineReg.io : LineReg → IoName
  | .lcdc => .lcdc
  | .scy => .scy
  | .scx => .scx
  | .wy => .wy
  | .wx => .wx
  | .bgp => .bgp
  | .obp0 => .obp0
  | .obp1 => .obp1
  | .ly => .ly

/-- The order of the reads at pixel-transfer (R350). -/
def LineReg.next : LineReg → Option LineReg
  | .lcdc => some .scy
  | .scy => some .scx
  | .scx => some .wy
  | .wy => some .wx
  | .wx => some .bgp
  | .bgp => some .obp0
  | .obp0 => some .obp1
  | .obp1 => some .ly
  | .ly => none

def LineRegs.put (l : LineRegs) (r : LineReg) (v : Byte) : LineRegs :=
  match r with
  | .lcdc => { l with lcdc := v }
  | .scy => { l with scy := v }
  | .scx => { l with scx := v }
  | .wy => { l with wy := v }
  | .wx => { l with wx := v }
  | .bgp => { l with bgp := v }
  | .obp0 => { l with obp0 := v }
  | .obp1 => { l with obp1 := v }
  | .ly => { l with ly := v }

/-- The locked read of OAM and the selection for the line (R347 to R349). -/
def State.snapshotOam (s : State) : State :=
  { s with ppu := { s.ppu with lineObjects := lineObjects s.cell s.ppu.tall s.ppu.seenLy } }

/-- The locked read of VRAM, with the line composed from it (R350, R351). -/
def State.composeFromVram (s : State) : State :=
  { s with ppu := { s.ppu with
      line := composeLine s.cell s.ppu.lineRegs s.ppu.tall s.ppu.lineObjects s.ppu.windowLine } }

/-- The write of the framebuffer line (R343), and the window line counter (R358). -/
def State.writeLine (s : State) : State :=
  { s with
    framebuffer := listSet s.ppu.lineRegs.ly.toNat s.ppu.line s.framebuffer
    ppu := { s.ppu with
      windowLine := if windowDrawn s.ppu.lineRegs then s.ppu.windowLine + 1 else s.ppu.windowLine } }

/-- The HBlank interrupt's condition (R362). -/
def Ppu.hBlankRaises (p : Ppu) : Bool := bit p.seenStat 3 || (bit p.seenStat 6 && p.seenLy == p.seenLyc)

/-! ## One atomic action -/

/-- OAM-search (R345 to R349). MODEL: after the interrupt it reads `LCDC` for the object height, then `LY`, and then
takes the snapshot; R348 only says that the height is read at the start action (log entry 31). -/
def State.oamAction (p : OamPos) (s : State) : State :=
  match p with
  | .start => (s.setMode 2).ppuGo (.oamSearch .readStat)
  | .readStat =>
    let s1 := s.seeStat
    s1.ppuGo (.oamSearch (if bit s1.ppu.seenStat 5 then .raise else .readLcdc))
  | .raise => (s.raiseIf 1).ppuGo (.oamSearch .fire)
  | .fire => s.fireIrq.ppuGo (.oamSearch .readLcdc)
  | .readLcdc => { s with ppu := { s.ppu with tall := bit (s.ioLoad 0xFF40#16) 2, pos := .oamSearch .readLy } }
  | .readLy => s.seeLy.ppuGo (.oamSearch .snapshot)
  | .snapshot => s.snapshotOam.ppuGo (.oamSearch .hold)
  | .hold => s.ppuEndHold (.pixelTransfer .start)

def State.xferAction (p : XferPos) (s : State) : State :=
  match p with
  | .start => (s.setMode 3).ppuGo (.pixelTransfer (.latch .lcdc))
  | .latch r =>
    { s with ppu := { s.ppu with
        lineRegs := s.ppu.lineRegs.put r (s.io.get r.io)
        pos := .pixelTransfer (match r.next with | some r' => .latch r' | none => .vram) } }
  | .vram => s.composeFromVram.ppuGo (.pixelTransfer .write)
  | .write => s.writeLine.ppuGo (.pixelTransfer .hold)
  | .hold => s.ppuEndHold (.hBlank .start)

def State.hBlankAction (p : HbPos) (s : State) : State :=
  match p with
  | .start => (s.setMode 0).ppuGo (.hBlank .readStat)
  | .readStat => s.seeStat.ppuGo (.hBlank .readLy)
  | .readLy => s.seeLy.ppuGo (.hBlank .readLyc)
  | .readLyc =>
    let s1 := s.seeLyc
    s1.ppuGo (.hBlank (if s1.ppu.hBlankRaises then .raise else .hold))
  | .raise => (s.raiseIf 1).ppuGo (.hBlank .fire)
  | .fire => s.fireIrq.ppuGo (.hBlank .hold)
  | .hold => s.ppuEndHold (.hBlank .incLy)
  | .incLy => (s.ioAdd 0xFF44#16 1).ppuGo (.hBlank .coinLy)
  | .coinLy => s.seeLy.ppuGo (.hBlank .coinLyc)
  | .coinLyc => s.seeLyc.ppuGo (.hBlank .coinSet)
  | .coinSet =>
    (s.setCoincidence (s.ppu.seenLy == s.ppu.seenLyc)).ppuGo
      (if s.ppu.seenLy == 144 then .vBlank .start else .oamSearch .start)

/-- The end of the entry to VBlank (R365): no line-equivalent is done. -/
def State.beginVBlankLines (s : State) : State :=
  { s with ppu := { s.ppu with vblankLine := 0, pos := .vBlank .lineStart } }

def State.vBlankAction (p : VbPos) (s : State) : State :=
  match p with
  | .start => (s.setMode 1).ppuGo (.vBlank .raise)
  | .raise => (s.raiseIf 0).ppuGo (.vBlank .fire)
  | .fire => s.fireIrq.ppuGo (.vBlank .readStat)
  | .readStat =>
    let s1 := s.seeStat
    if s.params.ppuVblankStatInt && bit s1.ppu.seenStat 4 then s1.ppuGo (.vBlank .raiseStat) else s1.beginVBlankLines
  | .raiseStat => (s.raiseIf 1).ppuGo (.vBlank .fireStat)
  | .fireStat => s.fireIrq.beginVBlankLines
  | .lineStart => s.ppuGo (.vBlank .hold)
  | .hold => { s with ppu := { s.ppu with vblankLine := s.ppu.vblankLine + 1 } }.ppuEndHold (.vBlank .readLy)
  | .readLy => s.seeLy.ppuGo (.vBlank .stepLy)
  | .stepLy =>
    (if s.ppu.seenLy == 153 then s.ioStore 0xFF44#16 0 else s.ioAdd 0xFF44#16 1).ppuGo (.vBlank .coinLy)
  | .coinLy => s.seeLy.ppuGo (.vBlank .coinLyc)
  | .coinLyc => s.seeLyc.ppuGo (.vBlank .coinSet)
  | .coinSet =>
    let s1 := s.setCoincidence (s.ppu.seenLy == s.ppu.seenLyc)
    if 10 ≤ s.ppu.vblankLine then
      { s1 with ppu := { s1.ppu with windowLine := 0, vblankLine := 0, pos := .oamSearch .start } }
    else s1.ppuGo (.vBlank .lineStart)

/-- The PPU's next atomic action (R344), the debug gate apart. -/
def State.ppuMove (s : State) : State :=
  match s.ppu.pos with
  | .oamSearch p => s.oamAction p
  | .pixelTransfer p => s.xferAction p
  | .hBlank p => s.hBlankAction p
  | .vBlank p => s.vBlankAction p

/-- Park the PPU (R368, R408). -/
def State.parkPpu (s : State) : State := { s with ppu := { s.ppu with parked := true } }

/-- One turn of the PPU under `SCHED = free`: nothing while it is parked; at a phase boundary it tests `step_mode`
(R408). -/
def State.ppuAction (s : State) : State :=
  if s.ppu.parked then s
  else if s.ppu.pos.isBoundary && s.stepMode then s.parkPpu
  else s.ppuMove

/-! ## Whole phases, for the reference schedule (R402) -/

/-- Take actions until the PPU holds its phase budget; with `stop`, a phase boundary is the end too. -/
def State.ppuToHold (stop : Bool) (fuel : Nat) (s : State) : State :=
  match fuel with
  | 0 => s
  | n + 1 => if s.ppu.pos.isHold || (stop && s.ppu.pos.isBoundary) then s else s.ppuMove.ppuToHold stop n

/-- Take actions until the PPU is at a phase boundary. -/
def State.ppuToBoundary (fuel : Nat) (s : State) : State :=
  match fuel with
  | 0 => s
  | n + 1 => if s.ppu.pos.isBoundary then s else s.ppuMove.ppuToBoundary n

/-- No action sequence between two holds has more actions than this. -/
def ppuFuel : Nat := 24

/-- `PpuCycle` (R402). With `gate` the PPU tests `step_mode` at its phase boundaries (R408); without it the cycle belongs
to an instruction of the reference schedule, which the single step counts in full (log entry 12). -/
def State.ppuCycle (gate : Bool) (s : State) : State :=
  if s.ppu.parked then s
  else
    let stop := gate && s.stepMode
    let s1 := s.ppuToHold stop ppuFuel
    if stop && s1.ppu.pos.isBoundary then s1.parkPpu
    else if s1.ppu.dot + 1 = s1.ppuBudget then
      let s2 := s1.ppuMove.ppuToBoundary ppuFuel
      if stop then s2.parkPpu else s2.ppuToHold false ppuFuel
    else { s1 with ppu := { s1.ppu with dot := s1.ppu.dot + 1 } }

/-- `repeat n times: PpuCycle`. -/
def State.ppuCycles (gate : Bool) (n : Nat) (s : State) : State :=
  match n with
  | 0 => s
  | k + 1 => (s.ppuCycle gate).ppuCycles gate k

/-! ## The framebuffer as presentation reads it (R343) -/

/-- `framebuffer[line][col]`; a line not written yet holds its launch content, a free value. -/
def State.pixel (s : State) (line col : Nat) : Shade :=
  match listGet line s.framebuffer with
  | some row => row.getD col 0
  | none => Config.launchShade line col

/-- `SHADE_RGB[shade]` (R343). -/
def rgbOf (m : ShadeRgb) (v : Shade) : Rgb :=
  match v.toNat with
  | 0 => m.shade0
  | 1 => m.shade1
  | 2 => m.shade2
  | _ => m.shade3

/-- The RGB triple of a cell (R343). -/
def State.pixelRgb (s : State) (line col : Nat) : Rgb := rgbOf s.params.shadeRgb (s.pixel line col)

end Sys2Proof.Machine
end

