-- ==== Sys2Proof/Machine/Timer.lean ====
section
/-! DEFINITION. The Timer agent (R390 to R395): its atomic actions in program order, the `DIV` count (R394), and a whole
cycle of the reference schedule (R402). -/

namespace Sys2Proof.Machine

/-- `Period(TAC.CLOCK_SELECT)` (R392). -/
def timerPeriod (tac : Byte) : Nat :=
  match tac.toNat % 4 with
  | 0 => 256
  | 1 => 4
  | 2 => 16
  | _ => 64

def State.timerGo (pos : TimerPos) (s : State) : State := { s with timer := { s.timer with pos := pos } }

/-- `Tick` (R392) with `TAC` as just read. -/
def State.timerTick (tac : Byte) (s : State) : State :=
  if timerPeriod tac ≤ s.timer.div + 1 then { s with timer := { s.timer with div := 0, pos := .addTima } }
  else { s with timer := { s.timer with div := s.timer.div + 1 } }

/-- The Timer's next atomic action (R391 to R393), the debug gate apart. A blocked Timer whose latch is not set has no
enabled action. -/
def State.timerMove (s : State) : State :=
  match s.timer.pos with
  | .blocked =>
    if s.timerEnableLatch then { s with timerEnableLatch := false, timer := { s.timer with pos := .woken } } else s
  | .woken =>
    if bit (s.ioLoad 0xFF07#16) 2 then { s with timer := { s.timer with div := 0, pos := .counting } }
    else s.timerGo .blocked
  | .counting =>
    if bit (s.ioLoad 0xFF07#16) 2 then s.timerTick (s.ioLoad 0xFF07#16) else s.timerGo .blocked
  | .addTima =>
    (s.ioAdd 0xFF05#16 1).timerGo (if s.ioAddWraps 0xFF05#16 1 then .readTma else .counting)
  | .readTma => s.timerGo (.storeTima (s.ioLoad 0xFF06#16))
  | .storeTima v => (s.ioStore 0xFF05#16 v).timerGo .raise
  | .raise => (s.raiseIf 2).timerGo .fire
  | .fire => s.fireIrq.timerGo .counting

/-- Between ticks: blocked, or about to read `TAC` for the next tick. Here the Timer parks (R408). MODEL: a blocked
Timer parks too, and a latch fired for it waits until it is resumed (log entry 32). -/
def TimerPos.atRest : TimerPos → Bool
  | .blocked => true
  | .counting => true
  | _ => false

/-- Park the Timer (R408). -/
def State.parkTimer (s : State) : State := { s with timer := { s.timer with parked := true } }

/-- One turn of the Timer under `SCHED = free`; before a tick, and while it is blocked, it tests `step_mode`
(R408, log entry 32). -/
def State.timerAction (s : State) : State :=
  if s.timer.parked then s
  else if s.timer.pos.atRest && s.stepMode then s.parkTimer
  else s.timerMove

/-- One cycle unit of the `DIV` count (R394): every 64 units `IoAdd(0xFF04, 1)`. -/
def State.divCycle (s : State) : State :=
  if s.params.divFreeRunning then
    if s.timer.divCount + 1 = 64 then
      { s with timer := { s.timer with divCount := 0 } }.ioAdd 0xFF04#16 1
    else { s with timer := { s.timer with divCount := s.timer.divCount + 1 } }
  else s

/-- One turn of the `DIV` count under `SCHED = free`. -/
def State.divAction (s : State) : State := if s.timer.parked then s else s.divCycle

/-- Take actions until the Timer is between ticks. -/
def State.timerToRest (fuel : Nat) (s : State) : State :=
  match fuel with
  | 0 => s
  | n + 1 => if s.timer.pos.atRest then s else s.timerMove.timerToRest n

/-- No action sequence between two ticks is longer. -/
def timerFuel : Nat := 8

/-- "if blocked and timer_enable_latch = 1: the wake of rule R391" (R402). -/
def State.timerWake (s : State) : State :=
  if s.timer.pos = .blocked ∧ s.timerEnableLatch = true then s.timerMove.timerMove else s

/-- "if now counting: the TAC check and Tick" (R402), with the whole of `IncrementTIMA`. -/
def State.timerTickCycle (s : State) : State :=
  if s.timer.pos = .counting then s.timerMove.timerToRest timerFuel else s

/-- `TimerCycle` (R402). `gate`: see `State.ppuCycle`; with it a blocked Timer parks as well (log entry 32). -/
def State.timerCycle (gate : Bool) (s : State) : State :=
  if s.timer.parked then s
  else
    let s1 := s.timerToRest timerFuel
    if gate && s.stepMode then s1.parkTimer else s1.timerWake.timerTickCycle.divCycle

/-- `repeat n times: TimerCycle`. -/
def State.timerCycles (gate : Bool) (n : Nat) (s : State) : State :=
  match n with
  | 0 => s
  | k + 1 => (s.timerCycle gate).timerCycles gate k

end Sys2Proof.Machine
end

