-- ==== Sys2Proof/Machine/Agents.lean ====
section
/-! DEFINITION. The agents other than the CPU moving between two of its bus actions (R75, R301, R400), and what the host
does (R81, R306, R408). -/

namespace Sys2Proof.Machine

/-! ## The host -/

def Joypad.get (j : Joypad) : Key → Bool
  | .right => j.right
  | .left => j.left
  | .up => j.up
  | .down => j.down
  | .a => j.a
  | .b => j.b
  | .select => j.select
  | .start => j.start

def Joypad.put (j : Joypad) (k : Key) (v : Bool) : Joypad :=
  match k with
  | .right => { j with right := v }
  | .left => { j with left := v }
  | .up => { j with up := v }
  | .down => { j with down := v }
  | .a => { j with a := v }
  | .b => { j with b := v }
  | .select => { j with select := v }
  | .start => { j with start := v }

/-- Whether a key's line is selected in `P1` (R35). -/
def State.lineSelected (s : State) : Key → Bool
  | .right | .left | .up | .down => !s.io.p1Sel.getLsbD 0
  | .a | .b | .select | .start => !s.io.p1Sel.getLsbD 1

/-- `IoOr` of a `RaiseInt` by the host, the latch fire to come (R304). -/
def State.hostRaise (i : Nat) (s : State) : State := { s.raiseIf i with hostPos := .fire }

/-- The next atomic action of the `RaiseInt` under way (R304). -/
def State.hostProceed (s : State) : State :=
  match s.hostPos with
  | .idle => s
  | .orJoypad => s.hostRaise 4
  | .fire => { s.fireIrq with hostPos := .idle }

/-- The rest of the `RaiseInt` under way: at most two actions. -/
def State.hostFinish (s : State) : State := s.hostProceed.hostProceed

/-- A key goes up or down. One of a selected line that goes down is to be followed by a `RaiseInt(4)` (R306). MODEL: the
change of the key and the `IoOr` are two atomic actions, a choice (log entry 17). -/
def State.hostKey (k : Key) (down : Bool) (s : State) : State :=
  { s with
    joypad := s.joypad.put k down
    hostPos := if down && !s.joypad.get k && s.lineSelected k then .orJoypad else s.hostPos }

/-- One action of the host. MODEL: a `RaiseInt` under way ends before the host begins anything else, and the serial
source is raised by `RaiseInt(3)` (log entries 17, 29). -/
def State.hostAction (h : HostAction) (s : State) : State :=
  match h with
  | .proceed => s.hostProceed
  | .pause => { s.hostFinish with stepMode := true }
  | .resume =>
    { s.hostFinish with
      stepMode := false
      cpuParked := false
      ppu := { s.hostFinish.ppu with parked := false }
      timer := { s.hostFinish.timer with parked := false } }
  | .key k down => s.hostFinish.hostKey k down
  | .raiseSerial => s.hostFinish.hostRaise 3
  | .writeTac v => s.hostFinish.poke 0xFF07#16 v

/-! ## The interleaving -/

/-- One turn of an agent other than the CPU. -/
def State.perform (t : Turn) (s : State) : State :=
  match t with
  | .cpu => s
  | .ppu => s.ppuAction
  | .timer => s.timerAction
  | .div => s.divAction
  | .host h => s.hostAction h

/-- The other agents' turns at the head of a list, up to the CPU's next one, which stays. -/
def State.runOthers (ts : List Turn) (s : State) : State :=
  match ts with
  | [] => { s with turns := [] }
  | .cpu :: r => { s with turns := .cpu :: r }
  | t :: r => (s.perform t).runOthers r

/-- The other agents move until it is the CPU's turn (R400). Under the reference schedule none moves inside an
iteration (R301, R402), and with no turn listed the reference schedule holds. -/
def State.others (s : State) : State :=
  match s.params.sched with
  | .lockstep => s
  | .free => s.runOthers s.turns

/-- The CPU's turn is used up. -/
def State.takeTurn (s : State) : State :=
  match s.params.sched, s.turns with
  | .free, .cpu :: r => { s with turns := r }
  | _, _ => s

/-- What happens before an atomic action of the CPU: the other agents move, then it is the CPU's turn. -/
def State.yield (s : State) : State := s.others.takeTurn

/-- No other agent moves between two bus actions of the CPU. -/
def State.quiet (s : State) : Bool := s.params.sched == .lockstep || s.turns == []

end Sys2Proof.Machine
end

