-- ==== Sys2Proof/Machine/Operands.lean ====
section
/-! DEFINITION. The operand forms of gbemu-ISA: registers and pairs (R8, R22, R24), bytes of memory through the Bus
(R9, R104), and the CPU's bus accesses as atomic actions (R301). -/

namespace Sys2Proof.Machine

/-! ## Registers -/

/-- `x[r]` (R8). -/
def Regs.r8 (g : Regs) : Reg8 → Byte
  | .b => g.b
  | .c => g.c
  | .d => g.d
  | .e => g.e
  | .h => g.h
  | .l => g.l
  | .a => g.a

/-- `x[r] <- v` (R8). -/
def Regs.setR8 (g : Regs) (r : Reg8) (v : Byte) : Regs :=
  match r with
  | .b => { g with b := v }
  | .c => { g with c := v }
  | .d => { g with d := v }
  | .e => { g with e := v }
  | .h => { g with h := v }
  | .l => { g with l := v }
  | .a => { g with a := v }

/-- Every write of `F` forces its low four bits to zero (R24). -/
def maskF (v : Byte) : Byte := v &&& 0xF0

/-- `x[rr]`, or `SP` (R8, R22). -/
def Regs.r16 (g : Regs) : Reg16 → Word
  | .bc => joined g.b g.c
  | .de => joined g.d g.e
  | .hl => joined g.h g.l
  | .sp => g.sp
  | .af => joined g.a g.f

/-- `x[rr] <- v`, or `SP <- v` (R8, R22, R24). -/
def Regs.setR16 (g : Regs) (rr : Reg16) (v : Word) : Regs :=
  match rr with
  | .bc => { g with b := hi v, c := lo v }
  | .de => { g with d := hi v, e := lo v }
  | .hl => { g with h := hi v, l := lo v }
  | .sp => { g with sp := v }
  | .af => { g with a := hi v, f := maskF (lo v) }

def State.r8 (s : State) (r : Reg8) : Byte := s.regs.r8 r
def State.r16 (s : State) (rr : Reg16) : Word := s.regs.r16 rr
def State.hl (s : State) : Word := s.regs.r16 .hl

def State.setR8 (r : Reg8) (v : Byte) (s : State) : State := { s with regs := s.regs.setR8 r v }
def State.setR16 (rr : Reg16) (v : Word) (s : State) : State := { s with regs := s.regs.setR16 rr v }

/-- `x[F] <- v` (R24). -/
def State.setF (v : Byte) (s : State) : State := { s with regs := { s.regs with f := maskF v } }

def State.setSp (v : Word) (s : State) : State := { s with regs := { s.regs with sp := v } }
def State.setPc (v : Word) (s : State) : State := { s with regs := { s.regs with pc := v } }

/-! ## Bus accesses of the CPU -/

/-- `MemRead(a, 1)` (R9): the other agents move, then one byte is read; a later read draws another free value. -/
def State.busRead (a : Word) (s : State) : Byte × State :=
  let s1 := s.yield
  (s1.peek a, { s1 with draws := s1.draws + 1 })

/-- `MemWrite(a, 1, v)` (R9). -/
def State.busWrite (a : Word) (v : Byte) (s : State) : State := s.yield.poke a v

/-- The byte at `x[HL]`, operand index 6 of table r8 (R104). -/
def State.readM (s : State) : Byte × State := s.busRead s.hl

/-- Write the byte at `x[HL]`. -/
def State.writeM (v : Byte) (s : State) : State := s.busWrite s.hl v

end Sys2Proof.Machine
end

