-- ==== Sys2Proof/Machine/Ops.lean ====
section
/-! DEFINITION. The operations the meanings share: the end of an instruction (R10), the stack (R170), raising a fatal
fault (R320), interrupt entry (R310) and the return from one (R231). -/

namespace Sys2Proof.Machine

/-- What a step or a meaning of this machine answers. -/
abbrev Answer := Host.Outcome State Fault Refusal

/-! ## The end of an instruction (R10) -/

/-- `cycles <- cycles + n` (R32). -/
def State.addCycles (n : Nat) (s : State) : State := { s with cycles := s.cycles + n }

/-- `pc <- pc + len`, `cycles <- cycles + cost` (R10, R26). -/
def State.advance (len cost : Nat) (s : State) : State :=
  (s.setPc (s.regs.pc + BitVec.ofNat 16 len)).addCycles cost

/-- `pc <- target`, `cycles <- cycles + cost` (R10, R220). -/
def State.jump (target : Word) (cost : Nat) (s : State) : State := (s.setPc target).addCycles cost

/-! ## The stack (R170) -/

/-- `Push16(v)`: the high byte first, each after a decrement of `SP`. -/
def State.push16 (v : Word) (s : State) : State :=
  let s1 := s.setSp (s.regs.sp - 1)
  let s2 := s1.busWrite s1.regs.sp (hi v)
  let s3 := s2.setSp (s2.regs.sp - 1)
  s3.busWrite s3.regs.sp (lo v)

/-- `Pop16()`: the low byte first, each before an increment of `SP`. -/
def State.pop16 (s : State) : Word × State :=
  let l := s.busRead s.regs.sp
  let s1 := l.2.setSp (l.2.regs.sp + 1)
  let h := s1.busRead s1.regs.sp
  (joined h.1 l.1, h.2.setSp (h.2.regs.sp + 1))

/-! ## Exceptions -/

/-- Raise a fatal fault (R320): `cpu_fault` records it and nothing else of the CPU is written. -/
def State.raiseFault (e : CpuFault) (s : State) : State := { s with cpuFault := some e }

/-- The vector of source `i` (R303). -/
def vector (i : Nat) : Word := BitVec.ofNat 16 (0x40 + 8 * i)

/-- `InterruptEntry(i)` (R310): push `pc`, jump to the vector, clear the request, close the gate. -/
def State.interruptEntry (i : Nat) (s : State) : State :=
  let s1 := s.push16 s.regs.pc
  let s2 := s1.setPc (vector i)
  let s3 := s2.yield.ioAnd 0xFF0F#16 (~~~(intMask i))
  { s3 with ime := false }.addCycles s3.params.intDispatchCycles

/-- The return from an interrupt (R231): pop `pc`, open the gate at once. -/
def State.interruptReturn (s : State) : State :=
  let t := s.pop16
  { t.2.setPc t.1 with ime := true, imeDelay := 0 }

/-! ## Writing a result -/

/-- Write a result byte to `A` and the flags. -/
def State.putA (r : Result) (s : State) : State := (s.setR8 .a r.val).setF r.f

/-- Write a result byte to a register and the flags. -/
def State.putR (dst : Reg8) (r : Result) (s : State) : State := (s.setR8 dst r.val).setF r.f

/-- Read the byte at `x[HL]`, write the result back (two bus actions, R72), and write the flags. -/
def State.modifyM (op : Byte → Result) (s : State) : State :=
  let o := s.readM
  (o.2.writeM (op o.1).val).setF (op o.1).f

/-- An 8-bit operation on the byte at `x[HL]` that touches no flag (R262, R263). -/
def State.rewriteM (op : Byte → Byte) (s : State) : State :=
  let o := s.readM
  o.2.writeM (op o.1)

/-- A rotate or shift of a register (R240). -/
def State.shiftR (r : Reg8) (op : Byte → Shifted) (s : State) : State :=
  let v := op (s.r8 r)
  (s.setR8 r v.val).setF (shiftF v)

/-- A rotate or shift of the byte at `x[HL]` (R240). -/
def State.shiftM (op : Byte → Shifted) (s : State) : State :=
  s.modifyM (fun o => ⟨(op o).val, shiftF (op o)⟩)

/-- An 8-bit operation on `A` and the byte at `x[HL]` (R181). -/
def State.aluM (op : Byte → Byte → Result) (s : State) : State :=
  let o := s.readM
  o.2.putA (op o.2.regs.a o.1)

/-- An accumulator-only rotate (R240). -/
def State.shiftA (op : Byte → Shifted) (s : State) : State :=
  let v := op s.regs.a
  (s.setR8 .a v.val).setF (shiftAF v)

/-- Continue with the next state of an answer. -/
def Answer.andThen (o : Answer) (k : State → Answer) : Answer :=
  match o with
  | .next s => k s
  | .fault r => .fault r
  | .refused r => .refused r

end Sys2Proof.Machine
end

