-- ==== Sys2Proof/Machine/Alu16.lean ====
section
/-! DEFINITION. 16-bit arithmetic (43_alu16.md, R210 to R213). -/

namespace Sys2Proof.Machine

/-- `ADD HL,rr` (R210). -/
def execAddHlRr (rr : Reg16) (s : State) : Answer :=
  .next (((s.setR16 .hl (s.hl + s.r16 rr)).setF (addHlF s.regs.f s.hl (s.r16 rr))).advance 1 2)

/-- `ADD SP,e8` (R211). -/
def execAddSpE8 (e : Byte) (s : State) : Answer :=
  .next (((s.setSp (s.regs.sp + sext16 e)).setF (spAddF s.regs.sp e)).advance 2 4)

/-- `INC rr` (R212). -/
def execIncRr (rr : Reg16) (s : State) : Answer := .next ((s.setR16 rr (s.r16 rr + 1)).advance 1 2)

/-- `DEC rr` (R213). -/
def execDecRr (rr : Reg16) (s : State) : Answer := .next ((s.setR16 rr (s.r16 rr - 1)).advance 1 2)

end Sys2Proof.Machine
end

