-- ==== Sys2Proof/Machine/Alu8.lean ====
section
/-! DEFINITION. 8-bit arithmetic and logic (42_alu8.md, R180 to R199). -/

namespace Sys2Proof.Machine

/-! ## The eight accumulator operations (R181) -/

/-- `ADD A,r` (R182). -/
def execAddR (r : Reg8) (s : State) : Answer := .next ((s.putA (addOp s.regs.a (s.r8 r) false)).advance 1 1)

/-- `ADD A,(HL)` (R182). -/
def execAddM (s : State) : Answer := .next ((s.aluM (fun a o => addOp a o false)).advance 1 2)

/-- `ADD A,d8` (R182). -/
def execAddI (d : Byte) (s : State) : Answer := .next ((s.putA (addOp s.regs.a d false)).advance 2 2)

/-- `ADC A,r` (R183). -/
def execAdcR (r : Reg8) (s : State) : Answer := .next ((s.putA (addOp s.regs.a (s.r8 r) (flagC s.regs.f))).advance 1 1)

/-- `ADC A,(HL)` (R183). -/
def execAdcM (s : State) : Answer := .next ((s.aluM (fun a o => addOp a o (flagC s.regs.f))).advance 1 2)

/-- `ADC A,d8` (R183). -/
def execAdcI (d : Byte) (s : State) : Answer := .next ((s.putA (addOp s.regs.a d (flagC s.regs.f))).advance 2 2)

/-- `SUB A,r` (R184). -/
def execSubR (r : Reg8) (s : State) : Answer := .next ((s.putA (subOp s.regs.a (s.r8 r) false)).advance 1 1)

/-- `SUB A,(HL)` (R184). -/
def execSubM (s : State) : Answer := .next ((s.aluM (fun a o => subOp a o false)).advance 1 2)

/-- `SUB A,d8` (R184). -/
def execSubI (d : Byte) (s : State) : Answer := .next ((s.putA (subOp s.regs.a d false)).advance 2 2)

/-- `SBC A,r` (R185). -/
def execSbcR (r : Reg8) (s : State) : Answer := .next ((s.putA (subOp s.regs.a (s.r8 r) (flagC s.regs.f))).advance 1 1)

/-- `SBC A,(HL)` (R185). -/
def execSbcM (s : State) : Answer := .next ((s.aluM (fun a o => subOp a o (flagC s.regs.f))).advance 1 2)

/-- `SBC A,d8` (R185). -/
def execSbcI (d : Byte) (s : State) : Answer := .next ((s.putA (subOp s.regs.a d (flagC s.regs.f))).advance 2 2)

/-- `AND A,r` (R186). -/
def execAndR (r : Reg8) (s : State) : Answer := .next ((s.putA (andOp s.regs.a (s.r8 r))).advance 1 1)

/-- `AND A,(HL)` (R186). -/
def execAndM (s : State) : Answer := .next ((s.aluM andOp).advance 1 2)

/-- `AND A,d8` (R186). -/
def execAndI (d : Byte) (s : State) : Answer := .next ((s.putA (andOp s.regs.a d)).advance 2 2)

/-- `XOR A,r` (R187). -/
def execXorR (r : Reg8) (s : State) : Answer := .next ((s.putA (xorOp s.regs.a (s.r8 r))).advance 1 1)

/-- `XOR A,(HL)` (R187). -/
def execXorM (s : State) : Answer := .next ((s.aluM xorOp).advance 1 2)

/-- `XOR A,d8` (R187). -/
def execXorI (d : Byte) (s : State) : Answer := .next ((s.putA (xorOp s.regs.a d)).advance 2 2)

/-- `OR A,r` (R188). -/
def execOrR (r : Reg8) (s : State) : Answer := .next ((s.putA (orOp s.regs.a (s.r8 r))).advance 1 1)

/-- `OR A,(HL)` (R188). -/
def execOrM (s : State) : Answer := .next ((s.aluM orOp).advance 1 2)

/-- `OR A,d8` (R188). -/
def execOrI (d : Byte) (s : State) : Answer := .next ((s.putA (orOp s.regs.a d)).advance 2 2)

/-- `CP A,r` (R189): the flags of `SUB`; `A` is not written. -/
def execCpR (r : Reg8) (s : State) : Answer := .next ((s.setF (subOp s.regs.a (s.r8 r) false).f).advance 1 1)

/-- `CP A,(HL)` (R189). -/
def execCpM (s : State) : Answer :=
  let o := s.readM
  .next ((o.2.setF (subOp o.2.regs.a o.1 false).f).advance 1 2)

/-- `CP A,d8` (R189). -/
def execCpI (d : Byte) (s : State) : Answer := .next ((s.setF (subOp s.regs.a d false).f).advance 2 2)

/-! ## Increment and decrement -/

/-- `INC r` (R190). -/
def execIncR (r : Reg8) (s : State) : Answer := .next ((s.putR r (incOp s.regs.f (s.r8 r))).advance 1 1)

/-- `INC (HL)` (R191): a read and a write. -/
def execIncM (s : State) : Answer := .next ((s.modifyM (incOp s.regs.f)).advance 1 3)

/-- `DEC r` (R192). -/
def execDecR (r : Reg8) (s : State) : Answer := .next ((s.putR r (decOp s.regs.f (s.r8 r))).advance 1 1)

/-- `DEC (HL)` (R193): a read and a write. -/
def execDecM (s : State) : Answer := .next ((s.modifyM (decOp s.regs.f)).advance 1 3)

/-! ## Decimal adjust and the flag instructions -/

/-- `DAA` (R194): a key in no row of the table is a fatal fault, and nothing else is written (R322). -/
def execDaa (s : State) : Answer :=
  match daaRow s.regs.a s.regs.f with
  | some row => .next ((s.putA (daaOp row s.regs.a s.regs.f)).advance 1 1)
  | none => .next (s.raiseFault (.daaTableMiss s.regs.pc s.regs.a s.regs.f))

/-- `CPL` (R196). -/
def execCpl (s : State) : Answer := .next (((s.setR8 .a (~~~s.regs.a)).setF (cplF s.regs.f)).advance 1 1)

/-- `SCF` (R197). -/
def execScf (s : State) : Answer := .next ((s.setF (scfF s.regs.f)).advance 1 1)

/-- `CCF` (R198). -/
def execCcf (s : State) : Answer := .next ((s.setF (ccfF s.regs.f)).advance 1 1)

end Sys2Proof.Machine
end

