-- ==== Sys2Proof/Machine/Control.lean ====
section
/-! DEFINITION. Control flow (44_control.md, R220 to R232). A condition is taken on `F` before the instruction. -/

namespace Sys2Proof.Machine

/-! ## Jumps -/

/-- `JP a16` (R221). -/
def execJp (a : Word) (s : State) : Answer := .next (s.jump a 4)

/-- `JP cc,a16` (R222). -/
def execJpCc (cc : Cond) (a : Word) (s : State) : Answer :=
  if cc.holds s.regs.f then .next (s.jump a 4) else .next (s.advance 3 3)

/-- `JP HL` (R223). -/
def execJpHl (s : State) : Answer := .next (s.jump s.hl 1)

/-- The target of a relative jump (R224): relative to the next instruction. -/
def State.relative (e : Byte) (s : State) : Word := s.regs.pc + 2 + sext16 e

/-- `JR e8` (R224). -/
def execJr (e : Byte) (s : State) : Answer := .next (s.jump (s.relative e) 3)

/-- `JR cc,e8` (R225). -/
def execJrCc (cc : Cond) (e : Byte) (s : State) : Answer :=
  if cc.holds s.regs.f then .next (s.jump (s.relative e) 3) else .next (s.advance 2 2)

/-! ## Calls and returns -/

/-- `CALL a16` (R226). -/
def execCall (a : Word) (s : State) : Answer := .next ((s.push16 (s.regs.pc + 3)).jump a 6)

/-- `CALL cc,a16` (R227). -/
def execCallCc (cc : Cond) (a : Word) (s : State) : Answer :=
  if cc.holds s.regs.f then .next ((s.push16 (s.regs.pc + 3)).jump a 6) else .next (s.advance 3 3)

/-- `RET` (R228). -/
def execRet (s : State) : Answer :=
  let v := s.pop16
  .next (v.2.jump v.1 4)

/-- `RET cc` (R229). -/
def execRetCc (cc : Cond) (s : State) : Answer :=
  if cc.holds s.regs.f then
    let v := s.pop16
    .next (v.2.jump v.1 5)
  else .next (s.advance 1 2)

/-- `RETI` (R231). -/
def execReti (s : State) : Answer := .next (s.interruptReturn.addCycles 4)

/-- `RST t` (R232). -/
def execRst (t : Byte) (s : State) : Answer := .next ((s.push16 (s.regs.pc + 1)).jump (zext16 t) 4)

end Sys2Proof.Machine
end

