-- ==== Sys2Proof/Machine/Load.lean ====
section
/-! DEFINITION. The load instructions (40_load.md, R130 to R153): each copies a value and writes no flag, `LD HL,SP+e8`
apart. -/

namespace Sys2Proof.Machine

/-! ## Registers, immediates and the byte at `x[HL]` -/

/-- `LD r,r'` (R131). -/
def execLdRR (dst src : Reg8) (s : State) : Answer := .next ((s.setR8 dst (s.r8 src)).advance 1 1)

/-- `LD r,d8` (R132). -/
def execLdRI (r : Reg8) (d : Byte) (s : State) : Answer := .next ((s.setR8 r d).advance 2 2)

/-- `LD r,(HL)` (R133). -/
def execLdRM (r : Reg8) (s : State) : Answer :=
  let o := s.readM
  .next ((o.2.setR8 r o.1).advance 1 2)

/-- `LD (HL),r` (R134). -/
def execLdMR (r : Reg8) (s : State) : Answer := .next ((s.writeM (s.r8 r)).advance 1 2)

/-- `LD (HL),d8` (R135). -/
def execLdMI (d : Byte) (s : State) : Answer := .next ((s.writeM d).advance 2 3)

/-! ## The accumulator and an address -/

/-- `LD A,(BC)` (R136). -/
def execLdABc (s : State) : Answer :=
  let o := s.busRead (s.r16 .bc)
  .next ((o.2.setR8 .a o.1).advance 1 2)

/-- `LD A,(DE)` (R137). -/
def execLdADe (s : State) : Answer :=
  let o := s.busRead (s.r16 .de)
  .next ((o.2.setR8 .a o.1).advance 1 2)

/-- `LD (BC),A` (R138). -/
def execLdBcA (s : State) : Answer := .next ((s.busWrite (s.r16 .bc) s.regs.a).advance 1 2)

/-- `LD (DE),A` (R139). -/
def execLdDeA (s : State) : Answer := .next ((s.busWrite (s.r16 .de) s.regs.a).advance 1 2)

/-- `LD A,(a16)` (R140). -/
def execLdAA16 (a : Word) (s : State) : Answer :=
  let o := s.busRead a
  .next ((o.2.setR8 .a o.1).advance 3 4)

/-- `LD (a16),A` (R141). -/
def execLdA16A (a : Word) (s : State) : Answer := .next ((s.busWrite a s.regs.a).advance 3 4)

/-- `LDH A,(a8)` (R142). -/
def execLdhAA8 (off : Byte) (s : State) : Answer :=
  let o := s.busRead (highPage off)
  .next ((o.2.setR8 .a o.1).advance 2 3)

/-- `LDH (a8),A` (R143). -/
def execLdhA8A (off : Byte) (s : State) : Answer := .next ((s.busWrite (highPage off) s.regs.a).advance 2 3)

/-- `LD A,(C)` (R144). -/
def execLdAC (s : State) : Answer :=
  let o := s.busRead (highPage s.regs.c)
  .next ((o.2.setR8 .a o.1).advance 1 2)

/-- `LD (C),A` (R145). -/
def execLdCA (s : State) : Answer := .next ((s.busWrite (highPage s.regs.c) s.regs.a).advance 1 2)

/-! ## With increment or decrement of `HL` -/

/-- `LD (HL+),A` (R146). -/
def execLdHliA (s : State) : Answer := .next (((s.writeM s.regs.a).setR16 .hl (s.hl + 1)).advance 1 2)

/-- `LD A,(HL+)` (R147). -/
def execLdAHli (s : State) : Answer :=
  let o := s.readM
  .next (((o.2.setR8 .a o.1).setR16 .hl (s.hl + 1)).advance 1 2)

/-- `LD (HL-),A` (R148). -/
def execLdHldA (s : State) : Answer := .next (((s.writeM s.regs.a).setR16 .hl (s.hl - 1)).advance 1 2)

/-- `LD A,(HL-)` (R149). -/
def execLdAHld (s : State) : Answer :=
  let o := s.readM
  .next (((o.2.setR8 .a o.1).setR16 .hl (s.hl - 1)).advance 1 2)

/-! ## 16-bit loads -/

/-- `LD rr,d16` (R150). -/
def execLdRrD16 (rr : Reg16) (d : Word) (s : State) : Answer := .next ((s.setR16 rr d).advance 3 3)

/-- `LD (a16),SP` (R151): the low byte first; the second address wraps. -/
def execLdA16Sp (a : Word) (s : State) : Answer :=
  .next (((s.busWrite a (lo s.regs.sp)).busWrite (a + 1) (hi s.regs.sp)).advance 3 5)

/-- `LD SP,HL` (R152). -/
def execLdSpHl (s : State) : Answer := .next ((s.setSp s.hl).advance 1 2)

/-- `LD HL,SP+e8` (R153). -/
def execLdHlSpE8 (e : Byte) (s : State) : Answer :=
  .next (((s.setR16 .hl (s.regs.sp + sext16 e)).setF (spAddF s.regs.sp e)).advance 2 3)

end Sys2Proof.Machine
end

