-- ==== Sys2Proof/Machine/Bit.lean ====
section
/-! DEFINITION. Bit test, reset and set (46_bit.md, R260 to R264). -/

namespace Sys2Proof.Machine

/-- `BIT b,r` (R261): nothing is written back. -/
def execBitR (b : BitVec 3) (r : Reg8) (s : State) : Answer :=
  .next ((s.setF (bitF s.regs.f b (s.r8 r))).advance 2 2)

/-- `BIT b,(HL)` (R261): one read, no write. -/
def execBitM (b : BitVec 3) (s : State) : Answer :=
  let o := s.readM
  .next ((o.2.setF (bitF o.2.regs.f b o.1)).advance 2 3)

/-- `RES b,r` (R262). -/
def execResR (b : BitVec 3) (r : Reg8) (s : State) : Answer := .next ((s.setR8 r (resOp b (s.r8 r))).advance 2 2)

/-- `RES b,(HL)` (R262): a read and a write, also when the bit was 0. -/
def execResM (b : BitVec 3) (s : State) : Answer := .next ((s.rewriteM (resOp b)).advance 2 4)

/-- `SET b,r` (R263). -/
def execSetR (b : BitVec 3) (r : Reg8) (s : State) : Answer := .next ((s.setR8 r (setOp b (s.r8 r))).advance 2 2)

/-- `SET b,(HL)` (R263): a read and a write. -/
def execSetM (b : BitVec 3) (s : State) : Answer := .next ((s.rewriteM (setOp b)).advance 2 4)

end Sys2Proof.Machine
end

