-- ==== Sys2Proof/Machine/RotateShift.lean ====
section
/-! DEFINITION. Rotates and shifts (45_rotate_shift.md, R240 to R252). -/

namespace Sys2Proof.Machine

/-! ## Accumulator-only forms -/

/-- `RLCA` (R241). -/
def execRlca (s : State) : Answer := .next ((s.shiftA rlcOp).advance 1 1)

/-- `RRCA` (R242). -/
def execRrca (s : State) : Answer := .next ((s.shiftA rrcOp).advance 1 1)

/-- `RLA` (R243). -/
def execRla (s : State) : Answer := .next ((s.shiftA (rlOp (flagC s.regs.f))).advance 1 1)

/-- `RRA` (R244). -/
def execRra (s : State) : Answer := .next ((s.shiftA (rrOp (flagC s.regs.f))).advance 1 1)

/-! ## General forms -/

/-- `RLC r` (R245). -/
def execRlcR (r : Reg8) (s : State) : Answer := .next ((s.shiftR r rlcOp).advance 2 2)

/-- `RLC (HL)` (R245). -/
def execRlcM (s : State) : Answer := .next ((s.shiftM rlcOp).advance 2 4)

/-- `RRC r` (R246). -/
def execRrcR (r : Reg8) (s : State) : Answer := .next ((s.shiftR r rrcOp).advance 2 2)

/-- `RRC (HL)` (R246). -/
def execRrcM (s : State) : Answer := .next ((s.shiftM rrcOp).advance 2 4)

/-- `RL r` (R247). -/
def execRlR (r : Reg8) (s : State) : Answer := .next ((s.shiftR r (rlOp (flagC s.regs.f))).advance 2 2)

/-- `RL (HL)` (R247). -/
def execRlM (s : State) : Answer := .next ((s.shiftM (rlOp (flagC s.regs.f))).advance 2 4)

/-- `RR r` (R248). -/
def execRrR (r : Reg8) (s : State) : Answer := .next ((s.shiftR r (rrOp (flagC s.regs.f))).advance 2 2)

/-- `RR (HL)` (R248). -/
def execRrM (s : State) : Answer := .next ((s.shiftM (rrOp (flagC s.regs.f))).advance 2 4)

/-- `SLA r` (R249). -/
def execSlaR (r : Reg8) (s : State) : Answer := .next ((s.shiftR r slaOp).advance 2 2)

/-- `SLA (HL)` (R249). -/
def execSlaM (s : State) : Answer := .next ((s.shiftM slaOp).advance 2 4)

/-- `SRA r` (R250). -/
def execSraR (r : Reg8) (s : State) : Answer := .next ((s.shiftR r sraOp).advance 2 2)

/-- `SRA (HL)` (R250). -/
def execSraM (s : State) : Answer := .next ((s.shiftM sraOp).advance 2 4)

/-- `SWAP r` (R251). -/
def execSwapR (r : Reg8) (s : State) : Answer := .next ((s.shiftR r swapOp).advance 2 2)

/-- `SWAP (HL)` (R251). -/
def execSwapM (s : State) : Answer := .next ((s.shiftM swapOp).advance 2 4)

/-- `SRL r` (R252). -/
def execSrlR (r : Reg8) (s : State) : Answer := .next ((s.shiftR r srlOp).advance 2 2)

/-- `SRL (HL)` (R252). -/
def execSrlM (s : State) : Answer := .next ((s.shiftM srlOp).advance 2 4)

end Sys2Proof.Machine
end

