-- ==== Sys2Proof/Machine/Prefix.lean ====
section
/-! DEFINITION. The prefix `0xCB` on its own (R275): the second byte is read at `pc + 1` and the prefixed instruction
runs. `step` decodes the pair at once; this is the meaning of the table's row of the prefix. Log entry 19. -/

namespace Sys2Proof.Machine

/-- Table `rot` (R107) on a register. -/
def runRotR (y : Nat) (r : Reg8) (s : State) : Answer :=
  match y with
  | 0 => execRlcR r s
  | 1 => execRrcR r s
  | 2 => execRlR r s
  | 3 => execRrR r s
  | 4 => execSlaR r s
  | 5 => execSraR r s
  | 6 => execSwapR r s
  | _ => execSrlR r s

/-- Table `rot` (R107) on the byte at `x[HL]`. -/
def runRotM (y : Nat) (s : State) : Answer :=
  match y with
  | 0 => execRlcM s
  | 1 => execRrcM s
  | 2 => execRlM s
  | 3 => execRrM s
  | 4 => execSlaM s
  | 5 => execSraM s
  | 6 => execSwapM s
  | _ => execSrlM s

/-- The prefixed table (R112). -/
def runPrefixed (op2 : Byte) (s : State) : Answer :=
  let y := op2.toNat / 8 % 8
  let b := op2.extractLsb' 3 3
  match op2.toNat / 64, r8OfIndex (op2.toNat % 8) with
  | 0, some r => runRotR y r s
  | 0, none => runRotM y s
  | 1, some r => execBitR b r s
  | 1, none => execBitM b s
  | 2, some r => execResR b r s
  | 2, none => execResM b s
  | _, some r => execSetR b r s
  | _, none => execSetM b s

/-- `0xCB` (R275): at `0xFFFF` the second byte lies past the address space (R323). -/
def execPrefixCb (s : State) : Answer :=
  if s.regs.pc = 0xFFFF then .next (s.raiseFault (.decodeOutOfBounds s.regs.pc))
  else
    let op2 := s.busRead (s.regs.pc + 1)
    runPrefixed op2.1 op2.2

end Sys2Proof.Machine
end

