-- ==== Sys2Proof/Machine/Stack.lean ====
section
/-! DEFINITION. The stack instructions (41_stack.md, R170 to R173). -/

namespace Sys2Proof.Machine

/-- `PUSH rr` (R171). -/
def execPushRr (rr : Reg16) (s : State) : Answer := .next ((s.push16 (s.r16 rr)).advance 1 4)

/-- `POP rr` (R172); `POP AF` masks the popped low byte (`Regs.setR16`). -/
def execPopRr (rr : Reg16) (s : State) : Answer :=
  let v := s.pop16
  .next ((v.2.setR16 rr v.1).advance 1 3)

end Sys2Proof.Machine
end

