-- ==== Sys2Proof/Machine/System.lean ====
section
/-! DEFINITION. System instructions (47_system.md, R270 to R276): the interrupt gate, `HALT`, `STOP`, and the undefined
opcodes, each of which raises its fatal fault (R320) and writes nothing else. -/

namespace Sys2Proof.Machine

/-- `NOP` (R270). -/
def execNop (s : State) : Answer := .next (s.advance 1 1)

/-- `DI` (R271). -/
def execDi (s : State) : Answer := .next ({ s with ime := false, imeDelay := 0 }.advance 1 1)

/-- Opening the interrupt gate by `EI` (R272): at once, or by the countdown, which only starts when the gate is closed
and none is running. -/
def State.enableInterrupts (s : State) : State :=
  if s.params.eiDelay then
    if s.ime = false ∧ s.imeDelay = 0 then { s with imeDelay := 2 } else s
  else { s with ime := true }

/-- `EI` (R272). -/
def execEi (s : State) : Answer := .next (s.enableInterrupts.advance 1 1)

/-- `HALT` (R273). -/
def execHalt (s : State) : Answer := .next ({ s with halted := true }.advance 1 1)

/-- `STOP` (R274): the second byte is not examined. -/
def execStop (_n : Byte) (s : State) : Answer := .next (s.raiseFault (.stopUnimplemented s.regs.pc))

/-! ## The 11 undefined opcodes (R276, R321) -/

/-- Opcode `0xD3` (R276). -/
def execIllegalD3 (s : State) : Answer := .next (s.raiseFault (.illegalOpcode s.regs.pc 0xD3))

/-- Opcode `0xDB` (R276). -/
def execIllegalDB (s : State) : Answer := .next (s.raiseFault (.illegalOpcode s.regs.pc 0xDB))

/-- Opcode `0xDD` (R276). -/
def execIllegalDD (s : State) : Answer := .next (s.raiseFault (.illegalOpcode s.regs.pc 0xDD))

/-- Opcode `0xE3` (R276). -/
def execIllegalE3 (s : State) : Answer := .next (s.raiseFault (.illegalOpcode s.regs.pc 0xE3))

/-- Opcode `0xE4` (R276). -/
def execIllegalE4 (s : State) : Answer := .next (s.raiseFault (.illegalOpcode s.regs.pc 0xE4))

/-- Opcode `0xEB` (R276). -/
def execIllegalEB (s : State) : Answer := .next (s.raiseFault (.illegalOpcode s.regs.pc 0xEB))

/-- Opcode `0xEC` (R276). -/
def execIllegalEC (s : State) : Answer := .next (s.raiseFault (.illegalOpcode s.regs.pc 0xEC))

/-- Opcode `0xED` (R276). -/
def execIllegalED (s : State) : Answer := .next (s.raiseFault (.illegalOpcode s.regs.pc 0xED))

/-- Opcode `0xF4` (R276). -/
def execIllegalF4 (s : State) : Answer := .next (s.raiseFault (.illegalOpcode s.regs.pc 0xF4))

/-- Opcode `0xFC` (R276). -/
def execIllegalFC (s : State) : Answer := .next (s.raiseFault (.illegalOpcode s.regs.pc 0xFC))

/-- Opcode `0xFD` (R276). -/
def execIllegalFD (s : State) : Answer := .next (s.raiseFault (.illegalOpcode s.regs.pc 0xFD))

end Sys2Proof.Machine
end

