-- ==== Sys2Proof/Machine/Dispatch.lean ====
section
/-! DEFINITION. The dispatcher: one arm per constructor of `Instr`, each one direct call of its meaning. -/

namespace Sys2Proof.Machine

def exec (i : Instr) (s : State) : Host.Outcome State Fault Refusal :=
  match i with
  | .nop => Sys2Proof.Machine.execNop s
  | .ldA16Sp a16 => Sys2Proof.Machine.execLdA16Sp a16 s
  | .stop second => Sys2Proof.Machine.execStop second s
  | .jr e8 => Sys2Proof.Machine.execJr e8 s
  | .jrCc cc e8 => Sys2Proof.Machine.execJrCc cc e8 s
  | .ldRrD16 rr d16 => Sys2Proof.Machine.execLdRrD16 rr d16 s
  | .addHlRr rr => Sys2Proof.Machine.execAddHlRr rr s
  | .ldBcA => Sys2Proof.Machine.execLdBcA s
  | .ldDeA => Sys2Proof.Machine.execLdDeA s
  | .ldHliA => Sys2Proof.Machine.execLdHliA s
  | .ldHldA => Sys2Proof.Machine.execLdHldA s
  | .ldABc => Sys2Proof.Machine.execLdABc s
  | .ldADe => Sys2Proof.Machine.execLdADe s
  | .ldAHli => Sys2Proof.Machine.execLdAHli s
  | .ldAHld => Sys2Proof.Machine.execLdAHld s
  | .incRr rr => Sys2Proof.Machine.execIncRr rr s
  | .decRr rr => Sys2Proof.Machine.execDecRr rr s
  | .incR r => Sys2Proof.Machine.execIncR r s
  | .incM => Sys2Proof.Machine.execIncM s
  | .decR r => Sys2Proof.Machine.execDecR r s
  | .decM => Sys2Proof.Machine.execDecM s
  | .ldRI r d8 => Sys2Proof.Machine.execLdRI r d8 s
  | .ldMI d8 => Sys2Proof.Machine.execLdMI d8 s
  | .rlca => Sys2Proof.Machine.execRlca s
  | .rrca => Sys2Proof.Machine.execRrca s
  | .rla => Sys2Proof.Machine.execRla s
  | .rra => Sys2Proof.Machine.execRra s
  | .daa => Sys2Proof.Machine.execDaa s
  | .cpl => Sys2Proof.Machine.execCpl s
  | .scf => Sys2Proof.Machine.execScf s
  | .ccf => Sys2Proof.Machine.execCcf s
  | .ldRR dst src => Sys2Proof.Machine.execLdRR dst src s
  | .ldRM r => Sys2Proof.Machine.execLdRM r s
  | .ldMR r => Sys2Proof.Machine.execLdMR r s
  | .halt => Sys2Proof.Machine.execHalt s
  | .addR r => Sys2Proof.Machine.execAddR r s
  | .addM => Sys2Proof.Machine.execAddM s
  | .addI d8 => Sys2Proof.Machine.execAddI d8 s
  | .adcR r => Sys2Proof.Machine.execAdcR r s
  | .adcM => Sys2Proof.Machine.execAdcM s
  | .adcI d8 => Sys2Proof.Machine.execAdcI d8 s
  | .subR r => Sys2Proof.Machine.execSubR r s
  | .subM => Sys2Proof.Machine.execSubM s
  | .subI d8 => Sys2Proof.Machine.execSubI d8 s
  | .sbcR r => Sys2Proof.Machine.execSbcR r s
  | .sbcM => Sys2Proof.Machine.execSbcM s
  | .sbcI d8 => Sys2Proof.Machine.execSbcI d8 s
  | .andR r => Sys2Proof.Machine.execAndR r s
  | .andM => Sys2Proof.Machine.execAndM s
  | .andI d8 => Sys2Proof.Machine.execAndI d8 s
  | .xorR r => Sys2Proof.Machine.execXorR r s
  | .xorM => Sys2Proof.Machine.execXorM s
  | .xorI d8 => Sys2Proof.Machine.execXorI d8 s
  | .orR r => Sys2Proof.Machine.execOrR r s
  | .orM => Sys2Proof.Machine.execOrM s
  | .orI d8 => Sys2Proof.Machine.execOrI d8 s
  | .cpR r => Sys2Proof.Machine.execCpR r s
  | .cpM => Sys2Proof.Machine.execCpM s
  | .cpI d8 => Sys2Proof.Machine.execCpI d8 s
  | .retCc cc => Sys2Proof.Machine.execRetCc cc s
  | .ldhA8A a8 => Sys2Proof.Machine.execLdhA8A a8 s
  | .addSpE8 e8 => Sys2Proof.Machine.execAddSpE8 e8 s
  | .ldhAA8 a8 => Sys2Proof.Machine.execLdhAA8 a8 s
  | .ldHlSpE8 e8 => Sys2Proof.Machine.execLdHlSpE8 e8 s
  | .popRr rr => Sys2Proof.Machine.execPopRr rr s
  | .ret => Sys2Proof.Machine.execRet s
  | .reti => Sys2Proof.Machine.execReti s
  | .jpHl => Sys2Proof.Machine.execJpHl s
  | .ldSpHl => Sys2Proof.Machine.execLdSpHl s
  | .jpCc cc a16 => Sys2Proof.Machine.execJpCc cc a16 s
  | .ldCA => Sys2Proof.Machine.execLdCA s
  | .ldA16A a16 => Sys2Proof.Machine.execLdA16A a16 s
  | .ldAC => Sys2Proof.Machine.execLdAC s
  | .ldAA16 a16 => Sys2Proof.Machine.execLdAA16 a16 s
  | .jp a16 => Sys2Proof.Machine.execJp a16 s
  | .prefixCb => Sys2Proof.Machine.execPrefixCb s
  | .di => Sys2Proof.Machine.execDi s
  | .ei => Sys2Proof.Machine.execEi s
  | .callCc cc a16 => Sys2Proof.Machine.execCallCc cc a16 s
  | .pushRr rr => Sys2Proof.Machine.execPushRr rr s
  | .call a16 => Sys2Proof.Machine.execCall a16 s
  | .rst t => Sys2Proof.Machine.execRst t s
  | .illegalD3 => Sys2Proof.Machine.execIllegalD3 s
  | .illegalDB => Sys2Proof.Machine.execIllegalDB s
  | .illegalDD => Sys2Proof.Machine.execIllegalDD s
  | .illegalE3 => Sys2Proof.Machine.execIllegalE3 s
  | .illegalE4 => Sys2Proof.Machine.execIllegalE4 s
  | .illegalEB => Sys2Proof.Machine.execIllegalEB s
  | .illegalEC => Sys2Proof.Machine.execIllegalEC s
  | .illegalED => Sys2Proof.Machine.execIllegalED s
  | .illegalF4 => Sys2Proof.Machine.execIllegalF4 s
  | .illegalFC => Sys2Proof.Machine.execIllegalFC s
  | .illegalFD => Sys2Proof.Machine.execIllegalFD s
  | .rlcR r => Sys2Proof.Machine.execRlcR r s
  | .rlcM => Sys2Proof.Machine.execRlcM s
  | .rrcR r => Sys2Proof.Machine.execRrcR r s
  | .rrcM => Sys2Proof.Machine.execRrcM s
  | .rlR r => Sys2Proof.Machine.execRlR r s
  | .rlM => Sys2Proof.Machine.execRlM s
  | .rrR r => Sys2Proof.Machine.execRrR r s
  | .rrM => Sys2Proof.Machine.execRrM s
  | .slaR r => Sys2Proof.Machine.execSlaR r s
  | .slaM => Sys2Proof.Machine.execSlaM s
  | .sraR r => Sys2Proof.Machine.execSraR r s
  | .sraM => Sys2Proof.Machine.execSraM s
  | .swapR r => Sys2Proof.Machine.execSwapR r s
  | .swapM => Sys2Proof.Machine.execSwapM s
  | .srlR r => Sys2Proof.Machine.execSrlR r s
  | .srlM => Sys2Proof.Machine.execSrlM s
  | .bitR b r => Sys2Proof.Machine.execBitR b r s
  | .bitM b => Sys2Proof.Machine.execBitM b s
  | .resR b r => Sys2Proof.Machine.execResR b r s
  | .resM b => Sys2Proof.Machine.execResM b s
  | .setR b r => Sys2Proof.Machine.execSetR b r s
  | .setM b => Sys2Proof.Machine.execSetM b s

end Sys2Proof.Machine
end

