-- ==== Sys2Proof/Machine/Cpu.lean ====
section
/-! DEFINITION. One iteration of the CPU agent (R300): the halt wake (R308), the interrupt check (R309), the debug gate
(R408), decoding (R323), execution and the `EI` countdown (R272). -/

namespace Sys2Proof.Machine

/-! ## Step 1: the halt wake -/

/-- `WakeCondition` (R308). -/
def State.wakeCondition (s : State) : Bool :=
  match s.params.haltWake with
  | .latch => s.irqLatch
  | .pending => s.requests != 0

/-- The CPU agent has an enabled action (R30, R308, R402, R408). -/
def State.cpuCanStep (s : State) : Bool := s.cpuFault.isNone && !s.cpuParked && (!s.halted || s.wakeCondition)

/-- Leave the halt: one atomic wait-and-clear (R308, R405). -/
def State.wake (s : State) : State := if s.halted then { s.yield with halted := false, irqLatch := false } else s

/-! ## Step 2: the interrupt check -/

/-- A bus read whose unimplemented bits the reader masks off: they are taken as 0, and the draw they would have been is
used up. -/
def State.busReadMasked (a : Word) (s : State) : Byte × State :=
  let s1 := s.yield
  (s1.stored a, { s1 with draws := s1.draws + 1 })

/-- The number of the lowest set bit of the five requests, the one of the highest priority (R303, R309). -/
def lowestRequest (p : Byte) : Nat :=
  if bit p 0 then 0 else if bit p 1 then 1 else if bit p 2 then 2 else if bit p 3 then 3 else 4

/-- The interrupt check (R309): `IF` and `IE` are read, `IF` first, and at most one interrupt is entered. -/
def State.checkInterrupts (s : State) : State :=
  let f := s.busReadMasked 0xFF0F#16
  let e := f.2.busReadMasked 0xFFFF#16
  let p := f.1 &&& e.1 &&& 0x1F
  if e.2.ime && p != 0 then e.2.interruptEntry (lowestRequest p) else e.2

/-! ## Steps 4 to 7 -/

/-- The count toward the open gate at the end of an iteration (R300 step 6, R272). A fault ends the iteration before it
(R320). -/
def State.countImeDelay (s : State) : State :=
  if s.cpuFault.isNone && s.imeDelay != 0 then
    { s with imeDelay := s.imeDelay - 1, ime := s.ime || s.imeDelay == 1 }
  else s

/-- Read `n` bytes from `a` upward (R70, R79). -/
def State.readCode (a : Word) (n : Nat) (s : State) : List Byte × State :=
  match n with
  | 0 => ([], s)
  | k + 1 =>
    let b := s.busRead a
    let r := b.2.readCode (a + 1) k
    (b.1 :: r.1, r.2)

/-- Decode at `pc` and execute (R300 steps 4 to 7). The bytes of the instruction must not run past `0xFFFF` (R323). -/
def State.decodeAndExecute (s : State) : Answer :=
  let op := s.busRead s.regs.pc
  if 0xFFFF < s.regs.pc.toNat + opLength op.1 - 1 then .next (op.2.raiseFault (.decodeOutOfBounds s.regs.pc))
  else
    let rest := op.2.readCode (s.regs.pc + 1) (opLength op.1 - 1)
    match decode (op.1 :: rest.1) with
    | .ok (i, _) => Answer.andThen (exec i rest.2) (fun t => .next t.countImeDelay)
    | .error .truncated => .next (rest.2.raiseFault (.decodeOutOfBounds s.regs.pc))

/-! ## The iteration -/

/-- Steps 1 and 2. -/
def State.beforeDecode (s : State) : State := s.wake.checkInterrupts

/-- One iteration. At step 3 the CPU parks if the host has set `step_mode`, and goes on from there once the host has
cleared `cpu_parked` (R408). -/
def State.iteration (s : State) : Answer :=
  match s.cpuPos with
  | .decode => { s with cpuPos := .top }.decodeAndExecute
  | .top =>
    let s1 := s.beforeDecode.others
    if s1.stepMode then .next { s1 with cpuParked := true, cpuPos := .decode } else s1.decodeAndExecute

end Sys2Proof.Machine
end

