-- ==== Sys2Proof/Machine/Schedule.lean ====
section
/-! DEFINITION. The scheduler: the reference schedule (R402) and the free one (R400). Under the free schedule `turns`
lists the coming atomic actions of the agents in any order; where the list ends the reference schedule, which is fair,
goes on (log entry 6). -/

namespace Sys2Proof.Machine

/-- Whether the engines test `step_mode` in the cycles of an instruction (R408, log entry 12). -/
def State.freeGate (s : State) : Bool := s.params.sched == .free

/-- Whether the PPU, about to act before the CPU's next iteration, tests `step_mode` at a phase boundary (R408). MODEL:
it does not where the reference schedule goes on with a CPU that has been resumed and stands before its decode: the
start action the PPU was parked before then comes ahead of the instruction, as it would have without the pause, whether
or not a Pause has followed the Resume (log entry 33). -/
def State.settleGate (s : State) : Bool := s.freeGate || s.cpuParked || s.cpuPos == .top

/-- What an agent left unfinished before a cycle of the reference schedule: the host's latch fire (R304), and the PPU's
actions up to the hold of its phase (at launch: the start action of OAM-search, R402). MODEL: where the listed turns of
the free schedule end inside a phase change, `ppu_dot` is 0 and the new phase is held for its full budget (log entry
34). MODEL: the launch start action is performed here, in the first pass, so after the inputs the host has given before
it (log entry 35). -/
def State.settle (s : State) : State :=
  let s1 := s.hostFinish
  if s1.ppu.parked then s1 else s1.ppuToHold (s1.settleGate && s1.stepMode) ppuFuel

/-- `c` cycles of the Timer, then of the PPU (R402). -/
def State.engineCycles (gate : Bool) (c : Nat) (s : State) : State := (s.timerCycles gate c).ppuCycles gate c

/-- One pass of the loop of R402 from a settled state. MODEL: an iteration that enters an interrupt and then parks at
step 3 gives the engines the cycles of the entry in the same pass; these are no instruction's, so the engines test
`step_mode` in them (R368, R408, log entry 12). -/
def State.referencePass (s : State) : Answer :=
  if s.cpuCanStep then
    Answer.andThen s.iteration (fun t => .next (t.engineCycles (t.freeGate || t.cpuParked) (t.cycles - s.cycles)))
  else .next (s.engineCycles true 1)

/-- The host's inputs before the next pass of the reference schedule. The other agents keep pace by themselves, so
their turns in the list are of no effect. -/
def State.hostInputs (ts : List Turn) (s : State) : State :=
  match ts with
  | [] => { s with turns := [] }
  | .cpu :: r => { s with turns := r }
  | .host h :: r => (s.hostAction h).hostInputs r
  | _ :: r => s.hostInputs r

/-- One step of the free schedule: the next listed atomic action; an action of the CPU begins an iteration, whose
further actions use up further turns. -/
def State.freeStep (s : State) : Answer :=
  match s.turns with
  | [] => s.settle.referencePass
  | .cpu :: r => if s.cpuCanStep then s.iteration else .next { s with turns := r }
  | t :: r => .next (State.perform t { s with turns := r })

end Sys2Proof.Machine
end

