-- ==== Sys2Proof/Machine/Step.lean ====
section
/-! DEFINITION. The step of the machine, and the placing of an instruction where the next step fetches it. -/

namespace Sys2Proof.Machine

/-- One step: a pass of the reference schedule, or the next action of the free one (R400, R402). MODEL: under the
reference schedule the host's listed inputs come first, in the very first pass also ahead of the PPU's launch start
action, so that a Pause among them leaves that action pending (log entries 27, 35). -/
def step (s : State) : Host.Outcome State Fault Refusal :=
  match s.params.sched with
  | .lockstep => (s.hostInputs s.turns).settle.referencePass
  | .free => s.freeStep

/-- Place bytes at ascending addresses in the storage behind them. -/
def State.placeBytes (a : Word) (bytes : List Byte) (s : State) : State :=
  match bytes with
  | [] => s
  | b :: r => (s.setCell (storageKey a) b).placeBytes (a + 1) r

/-- The state with the instruction of a word of the opcode table at `pc`, operand bytes of zeros above it: the program is
supplied from outside, as cartridge contents or RAM (log entry 21). -/
def State.withFetchWord (s : State) (nbits w : Nat) : State := s.placeBytes s.regs.pc (tableBytes nbits w)

end Sys2Proof.Machine
end

