-- ==== Sys2Proof/Machine/Launch.lean ====
section
/-! DEFINITION. Launch (R420, R424): the launch record, the refusal of a record that breaks an invariant of the state
(U24), the state a record launches, and the record a host-supplied snapshot stands for. -/

namespace Sys2Proof.Machine

/-- A launch record `RESET` (R420, R424), with the parameters of the run (R6). Log entry 20. -/
structure LaunchRecord where
  regs : Regs
  ime : Bool
  imeDelay : Nat
  halted : Bool
  cpuFault : Option CpuFault
  /-- The stored bits of the designated registers, `IE` among them. -/
  io : IoRegs
  /-- The supplied bytes of ROM, VRAM, WRAM, OAM, HRAM and the undesignated I/O bytes. -/
  mem : Memory
  joypad : Joypad
  params : Params
  deriving DecidableEq, Repr

/-- Where the PPU starts, by `LY` and `STAT.MODE`; `none` if they are not consistent. `STAT.MODE` = 1 on line 0 is the
default record's own: the start action of OAM-search is pending (R42, R421). Log entry 20. -/
def launchPos (ly : Byte) (mode : BitVec 2) : Option PpuPos :=
  if ly.toNat ≤ 143 then
    match mode.toNat with
    | 0 => some (.hBlank .hold)
    | 1 => if ly = 0 then some (.oamSearch .start) else none
    | 2 => some (.oamSearch .start)
    | _ => some (.pixelTransfer .start)
  else if ly.toNat ≤ 153 then
    match mode.toNat with
    | 1 => some (.vBlank .hold)
    | _ => none
  else none

/-- The record keeps the invariants of the state that do not speak of the PPU: the low nibble of `F` is zero, no
countdown runs, no fault is set, and the memory has its canonical form (R424, U24). -/
def LaunchRecord.legal (r : LaunchRecord) : Bool :=
  r.regs.f &&& 0x0F == 0 && r.imeDelay == 0 && r.cpuFault.isNone && Memory.wf r.mem

/-- The launched state (R424): `irq_latch` is set only for a record halted with a request pending, the Timer counts iff
`TAC.ENABLE` = 1, and what the record does not carry takes its default. -/
def launchState (r : LaunchRecord) (pos : PpuPos) : State :=
  { State.reset with
    regs := r.regs
    ime := r.ime
    halted := r.halted
    io := r.io
    mem := r.mem
    irqLatch := r.halted && r.io.ifr != 0
    timer := { State.reset.timer with pos := if r.io.timerEnable then .counting else .blocked }
    ppu := { State.reset.ppu with pos := pos, vblankLine := r.io.ly.toNat - 144 }
    joypad := r.joypad
    params := r.params }

/-- Launch (R420): the state of the record, or the refusal of a record that breaks an invariant (U24). -/
def launch (r : LaunchRecord) : Answer :=
  match r.legal, launchPos r.io.ly r.io.mode with
  | true, some pos => .next (launchState r pos)
  | _, _ => .refused .launchRecord

/-! ## Save-state import -/

/-- What a snapshot supplied by the host carries (R424). -/
structure Snapshot where
  pc : Word
  sp : Word
  af : Word
  bc : Word
  de : Word
  hl : Word
  ime : Bool
  halted : Bool
  io : IoRegs
  mem : Memory
  joypad : Joypad
  params : Params
  deriving DecidableEq, Repr

/-- The launch record of a snapshot (R424): a supplied `AF` is masked with `0xFFF0`, no countdown runs and no fault is
set. -/
def Snapshot.record (r : Snapshot) : LaunchRecord where
  regs := { a := hi r.af, f := maskF (lo r.af), b := hi r.bc, c := lo r.bc, d := hi r.de, e := lo r.de,
            h := hi r.hl, l := lo r.hl, sp := r.sp, pc := r.pc }
  ime := r.ime
  imeDelay := 0
  halted := r.halted
  cpuFault := none
  io := r.io
  mem := r.mem
  joypad := r.joypad
  params := r.params

end Sys2Proof.Machine
end

