-- ==== Sys2Proof/Safety.lean ====
section
/-! DEFINITION. The terms the claims use: the invariant every step keeps, what an encoding and a flag byte are in the
spec's own numbers, the state after an instruction, the addresses an instruction stores to, and the results of the
arithmetic rules as relations on numbers, written from the rules and not from the model's operations. -/

namespace Sys2Proof.Machine

/-! ## The invariant -/

/-- `LY`, `vblank_line` and `window_line` by the position of the PPU (R340, R341, R358, R363, R366): a visible line is 0
to 143, `LY` is 144 + `vblank_line` in VBlank, and the window's counter never passes the lines composed. -/
def linesOk (pos : PpuPos) (ly seenLy vblankLine windowLine : Nat) : Prop :=
  match pos with
  | .oamSearch _ => ly ≤ 143 ∧ windowLine ≤ ly
  | .pixelTransfer .hold => ly ≤ 143 ∧ windowLine ≤ ly + 1
  | .pixelTransfer _ => ly ≤ 143 ∧ windowLine ≤ ly
  | .hBlank .coinLy => ly ≤ 144 ∧ windowLine ≤ ly
  | .hBlank .coinLyc => ly ≤ 144 ∧ windowLine ≤ ly ∧ seenLy = ly
  | .hBlank .coinSet => ly ≤ 144 ∧ windowLine ≤ ly ∧ seenLy = ly
  | .hBlank _ => ly ≤ 143 ∧ windowLine ≤ ly + 1
  | .vBlank .lineStart => vblankLine ≤ 9 ∧ ly = 144 + vblankLine ∧ windowLine ≤ 144
  | .vBlank .hold => vblankLine ≤ 9 ∧ ly = 144 + vblankLine ∧ windowLine ≤ 144
  | .vBlank .readLy => 1 ≤ vblankLine ∧ vblankLine ≤ 10 ∧ ly = 143 + vblankLine ∧ windowLine ≤ 144
  | .vBlank .stepLy => 1 ≤ vblankLine ∧ vblankLine ≤ 10 ∧ ly = 143 + vblankLine ∧ windowLine ≤ 144 ∧ seenLy = ly
  | .vBlank .coinLy =>
    1 ≤ vblankLine ∧ vblankLine ≤ 10 ∧ (ly = if vblankLine = 10 then 0 else 144 + vblankLine) ∧ windowLine ≤ 144
  | .vBlank .coinLyc =>
    1 ≤ vblankLine ∧ vblankLine ≤ 10 ∧ (ly = if vblankLine = 10 then 0 else 144 + vblankLine) ∧ windowLine ≤ 144
  | .vBlank .coinSet =>
    1 ≤ vblankLine ∧ vblankLine ≤ 10 ∧ (ly = if vblankLine = 10 then 0 else 144 + vblankLine) ∧ windowLine ≤ 144
  | .vBlank _ => ly = 144 ∧ windowLine ≤ 144

/-- `STAT.MODE` is the number of the phase, once the phase's start action has written it (R42, R344). -/
def modeOk (pos : PpuPos) (mode : BitVec 2) : Prop :=
  match pos with
  | .oamSearch .start => True
  | .pixelTransfer .start => True
  | .hBlank .start => True
  | .vBlank .start => True
  | .oamSearch _ => mode = 2
  | .pixelTransfer _ => mode = 3
  | .hBlank _ => mode = 0
  | .vBlank _ => mode = 1

/-- The PPU is about to compose or to write the line it has latched. -/
def PpuPos.composing : PpuPos → Bool
  | .pixelTransfer .vram => true
  | .pixelTransfer .write => true
  | _ => false

/-- What holds of every state a launch or a step leads to. -/
structure Inv (s : State) : Prop where
  /-- The memory keeps its canonical form. -/
  memory : Memory.wf s.mem = true
  /-- The low nibble of `F` is zero (R24). -/
  flagsLow : s.regs.f &&& 0x0F = 0
  /-- `ime_delay` is 0, 1 or 2, and counts only behind a closed gate (R28). -/
  delayRange : s.imeDelay ≤ 2
  delayGate : s.imeDelay ≠ 0 → s.ime = false
  /-- With `EI_DELAY = 0` there is no countdown (R28). -/
  delayParam : s.params.eiDelay = false → s.imeDelay = 0
  /-- `timer_div` is 0 to 255 (R392). -/
  timerDiv : s.timer.div < 256
  divCount : s.timer.divCount < 64
  /-- `line_objects` has at most 10 entries (R341). -/
  objects : s.ppu.lineObjects.length ≤ 10
  lines : linesOk s.ppu.pos s.io.ly.toNat s.ppu.seenLy.toNat s.ppu.vblankLine s.ppu.windowLine
  modeFlag : modeOk s.ppu.pos s.io.mode
  /-- The line being composed is a visible one of 160 columns (R343). -/
  composed : s.ppu.pos.composing = true → s.ppu.lineRegs.ly.toNat ≤ 143
  lineLength : s.ppu.pos = .pixelTransfer .write → s.ppu.line.length = 160
  /-- The framebuffer lists visible lines only, each of 160 cells (R343). -/
  pictureRising : rising s.framebuffer = true
  pictureLines : ∀ e ∈ s.framebuffer, e.1 < 144 ∧ e.2.length = 160
  /-- A parked CPU stands before its decode (R408). -/
  parked : s.cpuParked = true → s.cpuPos = .decode

/-! ## Encodings and flags in the spec's numbers -/

/-- The bytes are the encoding of the instruction: the encoder gives them, the decoder reads them back, and `len` counts
them. -/
def Encodes (i : Instr) (bytes : List Byte) : Prop :=
  encode i = bytes ∧ decode bytes = .ok (i, []) ∧ i.len = bytes.length

/-- A flag byte with the four flags in bits 7 to 4, order Z N H C, and a zero low nibble (R23, R24). -/
abbrev FlagsAre (f : Byte) (z n h c : Bool) : Prop :=
  f.toNat = 128 * z.toNat + 64 * n.toNat + 32 * h.toNat + 16 * c.toNat

/-- `F.Z` and `F.C` and `F.N` of a flag byte, as bits of the number (R23). -/
def zeroOf (f : Byte) : Bool := decide (f.toNat / 128 % 2 = 1)
def negativeOf (f : Byte) : Bool := decide (f.toNat / 64 % 2 = 1)
def halfOf (f : Byte) : Bool := decide (f.toNat / 32 % 2 = 1)
def carryOf (f : Byte) : Bool := decide (f.toNat / 16 % 2 = 1)

/-- `signed(b)` (R7). -/
def signed (b : Byte) : Int := if b.toNat < 128 then (b.toNat : Int) else (b.toNat : Int) - 256

/-- `cond(cc)` (R106) in the spec's numbers. -/
def condition (cc : Cond) (f : Byte) : Bool :=
  match cc with
  | .nz => !zeroOf f
  | .z => zeroOf f
  | .nc => !carryOf f
  | .c => carryOf f

/-! ## The state after an instruction -/

/-- The state after an instruction that leaves the registers `g`, but for `pc` and the cycle counter, which the end of
the iteration moves (R10). -/
def State.ended (s : State) (g : Regs) (len cost : Nat) : State :=
  { s with regs := { g with pc := s.regs.pc + BitVec.ofNat 16 len }, cycles := s.cycles + cost }

/-- The state after an instruction that leaves the registers `g` with `pc` in them (R10, R220). -/
def State.went (s : State) (g : Regs) (cost : Nat) : State := { s with regs := g, cycles := s.cycles + cost }

/-- The state after one bus read of the CPU: the other agents' turns before it have passed, and a draw is used up. -/
def State.afterRead (s : State) : State := { s.yield with draws := s.yield.draws + 1 }

/-- The state after one bus write of the CPU. -/
def State.afterWrite (s : State) (a : Word) (v : Byte) : State := s.yield.poke a v

/-- The state after `Push16(v)` but for `SP` (R170): two writes, the high byte first. -/
def State.afterPush (s : State) (v : Word) : State :=
  (s.afterWrite (s.regs.sp - 1) (BitVec.ofNat 8 (v.toNat / 256))).afterWrite (s.regs.sp - 2)
    (BitVec.ofNat 8 (v.toNat % 256))

/-- What `Pop16()` reads (R170): the low byte first. -/
def State.popped (s : State) : Word :=
  BitVec.ofNat 16 ((s.afterRead.yield.peek (s.regs.sp + 1)).toNat * 256 + (s.yield.peek s.regs.sp).toNat)

/-! ## Steps of the CPU -/

/-- The CPU takes an action in the next step: it can take an iteration in the next pass of the reference schedule, or it
is its turn and it can (R400, R402, R403). -/
def State.cpuMoves (s : State) : Bool :=
  match s.params.sched, s.turns with
  | .lockstep, ts => (s.hostInputs ts).settle.cpuCanStep
  | .free, [] => s.settle.cpuCanStep
  | .free, .cpu :: _ => s.cpuCanStep
  | .free, _ :: _ => false

/-! ## The register file -/

/-- The addresses of the designated registers in the I/O page (R48). -/
def designatedAddresses : List Nat :=
  [0xFF00, 0xFF05, 0xFF06, 0xFF07, 0xFF0F, 0xFF40, 0xFF41, 0xFF42, 0xFF43, 0xFF44, 0xFF45, 0xFF47, 0xFF48, 0xFF49,
    0xFF4A, 0xFF4B]

/-- Whether a key is down (R35). -/
def keyIsDown (j : Joypad) (k : Key) : Bool :=
  match k with
  | .right => j.right
  | .left => j.left
  | .up => j.up
  | .down => j.down
  | .a => j.a
  | .b => j.b
  | .select => j.select
  | .start => j.start

/-! ## Stores -/

/-- The addresses an instruction stores to, each computed as its meaning computes it. The prefix on its own is none of
them: it runs the prefixed instruction its second byte names. -/
def storesOf (i : Instr) (s : State) : List Word :=
  match i with
  | .ldMR _ | .ldMI _ | .ldHliA | .ldHldA | .incM | .decM => [s.regs.r16 .hl]
  | .rlcM | .rrcM | .rlM | .rrM | .slaM | .sraM | .swapM | .srlM => [s.regs.r16 .hl]
  | .resM _ | .setM _ => [s.regs.r16 .hl]
  | .ldBcA => [s.regs.r16 .bc]
  | .ldDeA => [s.regs.r16 .de]
  | .ldA16A a => [a]
  | .ldhA8A off => [highPage off]
  | .ldCA => [highPage s.regs.c]
  | .ldA16Sp a => [a, a + 1]
  | .pushRr _ | .call _ | .rst _ => [s.regs.sp - 1, s.regs.sp - 2]
  | .callCc cc _ => if condition cc s.regs.f then [s.regs.sp - 1, s.regs.sp - 2] else []
  | _ => []

/-- An address of the cartridge's windows (R64). -/
def isCart (a : Word) : Bool := a.toNat < 0x8000 || (0xA000 ≤ a.toNat && a.toNat < 0xC000)

/-- Plain read and write storage (R173): video RAM, work RAM, its alias, object memory and high RAM. -/
def isPlain (a : Word) : Bool :=
  (0x8000 ≤ a.toNat && a.toNat < 0xA000) || (0xC000 ≤ a.toNat && a.toNat < 0xFEA0)
    || (0xFF80 ≤ a.toNat && a.toNat < 0xFFFF)

/-! ## Results of the rules, on numbers -/

/-- An operation on `A` and an operand: the registers before, the operand, the registers after. -/
abbrev AccRule := Regs → Byte → Regs → Prop

/-- `ADD` (R182) with a carry in (R183). -/
def AddsTo (c : Nat) (g : Regs) (o : Byte) (g' : Regs) : Prop :=
  ∃ v f : Byte, v.toNat = (g.a.toNat + o.toNat + c) % 256 ∧
    FlagsAre f (decide (v.toNat = 0)) false (decide (15 < g.a.toNat % 16 + o.toNat % 16 + c))
      (decide (255 < g.a.toNat + o.toNat + c)) ∧
    g' = { g with a := v, f := f }

/-- The difference and the flags of `SUB` (R184) with a borrow in (R185). -/
def Difference (c : Nat) (g : Regs) (o v f : Byte) : Prop :=
  (v.toNat : Int) = ((g.a.toNat : Int) - o.toNat - c) % 256 ∧
    FlagsAre f (decide (v.toNat = 0)) true (decide (g.a.toNat % 16 < o.toNat % 16 + c))
      (decide (g.a.toNat < o.toNat + c))

/-- `SUB` and `SBC` (R184, R185). -/
def SubtractsFrom (c : Nat) (g : Regs) (o : Byte) (g' : Regs) : Prop :=
  ∃ v f : Byte, Difference c g o v f ∧ g' = { g with a := v, f := f }

/-- `CP` (R189): the flags of `SUB`, and `A` is not written. -/
def Compares (g : Regs) (o : Byte) (g' : Regs) : Prop :=
  ∃ v f : Byte, Difference 0 g o v f ∧ g' = { g with f := f }

/-- A logical operation, bit by bit (R186 to R188), with its constant Half-carry. -/
def Combines (op : Bool → Bool → Bool) (half : Bool) (g : Regs) (o : Byte) (g' : Regs) : Prop :=
  ∃ v f : Byte, (∀ i, i < 8 → v.getLsbD i = op (g.a.getLsbD i) (o.getLsbD i)) ∧
    FlagsAre f (decide (v.toNat = 0)) false half false ∧ g' = { g with a := v, f := f }

/-- The three forms of a two-operand instruction (R181): encoding, operand, length and cost. -/
def AccForms (reg : Reg8 → Instr) (mem : Instr) (imm : Byte → Instr) (k : Nat) (rule : AccRule) : Prop :=
  ∀ s : State,
    (∀ r : Reg8, Encodes (reg r) [BitVec.ofNat 8 (0x80 + 8 * k) + r.index] ∧
      ∃ g, rule s.regs (s.regs.r8 r) g ∧ exec (reg r) s = .next (s.ended g 1 1)) ∧
    (Encodes mem [BitVec.ofNat 8 (0x86 + 8 * k)] ∧
      ∃ g, rule s.regs (s.yield.peek (s.regs.r16 .hl)) g ∧ exec mem s = .next (s.afterRead.ended g 1 2)) ∧
    (∀ d : Byte, Encodes (imm d) [BitVec.ofNat 8 (0xC6 + 8 * k), d] ∧
      ∃ g, rule s.regs d g ∧ exec (imm d) s = .next (s.ended g 2 2))

/-- An operation on one byte: Carry before, the operand, the result, Carry after. -/
abbrev ByteRule := Bool → Byte → Byte → Bool → Prop

/-- The operations of table `rot` (R107) by index (R245 to R252). -/
def rotRule (k : Nat) : ByteRule := fun c o v out =>
  match k with
  | 0 => v.toNat = 2 * o.toNat % 256 + o.toNat / 128 ∧ out = decide (128 ≤ o.toNat)
  | 1 => v.toNat = o.toNat / 2 + 128 * (o.toNat % 2) ∧ out = decide (o.toNat % 2 = 1)
  | 2 => v.toNat = 2 * o.toNat % 256 + c.toNat ∧ out = decide (128 ≤ o.toNat)
  | 3 => v.toNat = o.toNat / 2 + 128 * c.toNat ∧ out = decide (o.toNat % 2 = 1)
  | 4 => v.toNat = 2 * o.toNat % 256 ∧ out = decide (128 ≤ o.toNat)
  | 5 => v.toNat = o.toNat / 2 + 128 * (o.toNat / 128) ∧ out = decide (o.toNat % 2 = 1)
  | 6 => v.toNat = 16 * (o.toNat % 16) + o.toNat / 16 ∧ out = false
  | _ => v.toNat = o.toNat / 2 ∧ out = decide (o.toNat % 2 = 1)

/-- The two general forms of a rotate or shift (R240). -/
def RotForms (reg : Reg8 → Instr) (mem : Instr) (k : Nat) : Prop :=
  ∀ s : State,
    (∀ r : Reg8, Encodes (reg r) [0xCB, BitVec.ofNat 8 (8 * k) + r.index] ∧
      ∃ v f : Byte, ∃ out : Bool, rotRule k (carryOf s.regs.f) (s.regs.r8 r) v out ∧
        FlagsAre f (decide (v.toNat = 0)) false false out ∧
        exec (reg r) s = .next (s.ended { s.regs.setR8 r v with f := f } 2 2)) ∧
    (Encodes mem [0xCB, BitVec.ofNat 8 (8 * k + 6)] ∧
      ∃ v f : Byte, ∃ out : Bool, rotRule k (carryOf s.regs.f) (s.yield.peek (s.regs.r16 .hl)) v out ∧
        FlagsAre f (decide (v.toNat = 0)) false false out ∧
        exec mem s = .next ((s.afterRead.afterWrite (s.regs.r16 .hl) v).ended { s.regs with f := f } 2 4))

/-- An accumulator-only rotate (R240): Zero is cleared whatever the result. -/
def AccRotate (i : Instr) (op : Byte) (k : Nat) : Prop :=
  Encodes i [op] ∧ ∀ s : State, ∃ v f : Byte, ∃ out : Bool, rotRule k (carryOf s.regs.f) s.regs.a v out ∧
    FlagsAre f false false false out ∧ exec i s = .next (s.ended { s.regs with a := v, f := f } 1 1)

/-- `INC` (R190) and `DEC` (R192) of a byte: Carry is left alone. -/
def Steps (up : Bool) (f o v f' : Byte) : Prop :=
  (v.toNat : Int) = ((o.toNat : Int) + (if up then 1 else -1)) % 256 ∧
    FlagsAre f' (decide (v.toNat = 0)) (!up) (decide (o.toNat % 16 = if up then 15 else 0)) (carryOf f)

/-! ## Tiles and objects -/

/-- The pixel in column `x` and row `y` of the tile at `addr`, as a number (R355). -/
def tilePixelNumber (rd : Nat → Byte) (addr x y : Nat) : Nat :=
  2 * ((rd (addr + 2 * y + 1)).toNat / 2 ^ (7 - x) % 2) + (rd (addr + 2 * y)).toNat / 2 ^ (7 - x) % 2

/-- Where the tile of an index of a map lies (R356): from `0x8000` up, or indices 0 to 127 from `0x9000` up and 128 to
255 from `0x8800` up. -/
def tileStart (lcdc idx : Byte) : Nat :=
  if lcdc.getLsbD 4 then 0x8000 + 16 * idx.toNat
  else if idx.toNat < 128 then 0x9000 + 16 * idx.toNat
  else 0x8800 + 16 * (idx.toNat - 128)

/-- The entry of the map for the pixel `x`, `y` of the plane it covers (R354). -/
def mapEntry (second : Bool) (x y : Nat) : Nat := (if second then 0x9C00 else 0x9800) + 32 * (y / 8) + x / 8

/-- Priority order of two objects (R349): the smaller `x`, then the smaller index. -/
def higherPriority (o p : ObjEntry) : Prop := o.x.toNat < p.x.toNat ∨ (o.x = p.x ∧ o.index < p.index)

/-- Whether an object covers a line (R348), on numbers. -/
def coversLine (o : ObjEntry) (tall : Bool) (ly : Nat) : Prop :=
  o.y.toNat ≤ ly + 16 ∧ ly + 16 < o.y.toNat + (if tall then 16 else 8)

end Sys2Proof.Machine
end

