-- ==== Sys2Proof/Certificates/Slice0/Obligations.lean ====
section
/-! DEFINITION. The claims, each a proposition about the model. A docstring says which rule of spec/ a claim formalises. The
claims about instructions hold in every state, whatever the other agents do: `State.yield` is the state after the turns
that the other agents take before a bus action of the CPU. -/

open Sys2Proof Sys2Proof.Machine

/-! ## Encoding -/

/-- R103, R110: decoding the encoding of a well-formed instruction, with any bytes after it, gives the instruction and
those bytes back. The prefix is an instruction of the table only when no second byte follows it. -/
def Obligations.DecodeEncode : Prop :=
  (∀ (i : Instr) (rest : List Byte), i.wellFormed = true → i ≠ .prefixCb → decode (encode i ++ rest) = .ok (i, rest)) ∧
    decode (encode .prefixCb) = .ok (.prefixCb, [])

/-- R103, R114: whatever is decoded is a well-formed instruction, and its encoding is exactly the bytes decoded: no two
words stand for one instruction and none is a reserved one. -/
def Obligations.EncodeDecode : Prop :=
  ∀ (bytes rest : List Byte) (i : Instr), decode bytes = .ok (i, rest) → i.wellFormed = true ∧ encode i ++ rest = bytes

/-- R111, R112: words of the opcode map, bit by bit, and what they stand for. -/
def Obligations.DecodeWords : Prop :=
  decodeOne [0b01000001#8] = some (.ldRR .b .c) ∧
  decodeOne [0b00000110#8, 0x99#8] = some (.ldRI .b 0x99) ∧
  decodeOne [0b00110001#8, 0xFE#8, 0xFF#8] = some (.ldRrD16 .sp 0xFFFE) ∧
  decodeOne [0b11110101#8] = some (.pushRr .af) ∧
  decodeOne [0b10011111#8] = some (.sbcR .a) ∧
  decodeOne [0b00111001#8] = some (.addHlRr .sp) ∧
  decodeOne [0b11011010#8, 0x00#8, 0x80#8] = some (.jpCc .c 0x8000) ∧
  decodeOne [0b11101111#8] = some (.rst 0x28) ∧
  decodeOne [0b11001011#8, 0b00110111#8] = some (.swapR .a) ∧
  decodeOne [0b11001011#8, 0b01100110#8] = some (.bitM 4) ∧
  decodeOne [0b01110110#8] = some .halt ∧
  decodeOne [0b11111101#8] = some .illegalFD

/-- R109, R440: an instruction that raises no fault advances the cycle counter by its cost, which for a conditional form
depends on the flags before it. -/
def Obligations.CyclesAdvanceByCost : Prop :=
  ∀ (i : Instr) (s t : State), i ≠ .prefixCb → exec i s = .next t → t.cpuFault = none →
    t.cycles = s.cycles + i.cost s.regs.f

/-! ## Registers -/

/-- R22, R8: a pair is a view of its two registers, the first letter the high byte; a write of a pair writes both and
nothing else (of `AF`, with the low nibble of `F` cleared), and a write of one register changes no other. -/
def Obligations.RegisterPairs : Prop :=
  ∀ g : Regs,
    (g.r16 .af).toNat = g.a.toNat * 256 + g.f.toNat ∧ (g.r16 .bc).toNat = g.b.toNat * 256 + g.c.toNat ∧
    (g.r16 .de).toNat = g.d.toNat * 256 + g.e.toNat ∧ (g.r16 .hl).toNat = g.h.toNat * 256 + g.l.toNat ∧
    g.r16 .sp = g.sp ∧
    (∀ v : Word, (g.setR16 .bc v).r16 .bc = v ∧ (g.setR16 .de v).r16 .de = v ∧ (g.setR16 .hl v).r16 .hl = v ∧
      (g.setR16 .sp v).r16 .sp = v ∧ (g.setR16 .af v).r16 .af = v &&& 0xFFF0) ∧
    (∀ v : Word,
      let high := BitVec.ofNat 8 (v.toNat / 256)
      let low := BitVec.ofNat 8 (v.toNat % 256)
      g.setR16 .bc v = { g with b := high, c := low } ∧ g.setR16 .de v = { g with d := high, e := low } ∧
      g.setR16 .hl v = { g with h := high, l := low } ∧ g.setR16 .sp v = { g with sp := v } ∧
      g.setR16 .af v = { g with a := high, f := BitVec.ofNat 8 (v.toNat % 256 / 16 * 16) }) ∧
    (g.r8 .a = g.a ∧ g.r8 .b = g.b ∧ g.r8 .c = g.c ∧ g.r8 .d = g.d ∧ g.r8 .e = g.e ∧ g.r8 .h = g.h ∧ g.r8 .l = g.l) ∧
    (∀ (r r' : Reg8) (v : Byte), (g.setR8 r v).r8 r = v ∧ (r' ≠ r → (g.setR8 r v).r8 r' = g.r8 r') ∧
      (g.setR8 r v).f = g.f ∧ (g.setR8 r v).sp = g.sp ∧ (g.setR8 r v).pc = g.pc)

/-! ## Loads -/

/-- R131, R132, R150, R152: loads between registers and of immediates. -/
def Obligations.LoadsOfRegisters : Prop :=
  ∀ s : State,
    (∀ dst src : Reg8, Encodes (.ldRR dst src) [0x40 + 8 * dst.index + src.index] ∧
      exec (.ldRR dst src) s = .next (s.ended (s.regs.setR8 dst (s.regs.r8 src)) 1 1)) ∧
    (∀ (r : Reg8) (d : Byte), Encodes (.ldRI r d) [0x06 + 8 * r.index, d] ∧
      exec (.ldRI r d) s = .next (s.ended (s.regs.setR8 r d) 2 2)) ∧
    (∀ (rr : Reg16) (l h : Byte), rr.inRp = true →
      Encodes (.ldRrD16 rr (h ++ l)) [0x01 + 16 * rr.index, l, h] ∧
      exec (.ldRrD16 rr (h ++ l)) s = .next (s.ended (s.regs.setR16 rr (h ++ l)) 3 3)) ∧
    (Encodes .ldSpHl [0xF9] ∧ exec .ldSpHl s = .next (s.ended { s.regs with sp := s.regs.r16 .hl } 1 2))

/-- R133, R136, R137, R140, R142, R144, R147, R149: loads from memory. The byte is what the Bus returns once the other
agents' turns before the access have passed; `LD A,(HL+)` and `LD A,(HL-)` move `HL` after the access. -/
def Obligations.LoadsFromMemory : Prop :=
  ∀ s : State,
    (∀ r : Reg8, Encodes (.ldRM r) [0x46 + 8 * r.index] ∧
      exec (.ldRM r) s = .next (s.afterRead.ended (s.regs.setR8 r (s.yield.peek (s.regs.r16 .hl))) 1 2)) ∧
    (Encodes .ldABc [0x0A] ∧
      exec .ldABc s = .next (s.afterRead.ended { s.regs with a := s.yield.peek (s.regs.r16 .bc) } 1 2)) ∧
    (Encodes .ldADe [0x1A] ∧
      exec .ldADe s = .next (s.afterRead.ended { s.regs with a := s.yield.peek (s.regs.r16 .de) } 1 2)) ∧
    (∀ l h : Byte, Encodes (.ldAA16 (h ++ l)) [0xFA, l, h] ∧
      exec (.ldAA16 (h ++ l)) s = .next (s.afterRead.ended { s.regs with a := s.yield.peek (h ++ l) } 3 4)) ∧
    (∀ off : Byte, Encodes (.ldhAA8 off) [0xF0, off] ∧
      exec (.ldhAA8 off) s = .next (s.afterRead.ended { s.regs with a := s.yield.peek (0xFF#8 ++ off) } 2 3)) ∧
    (Encodes .ldAC [0xF2] ∧
      exec .ldAC s = .next (s.afterRead.ended { s.regs with a := s.yield.peek (0xFF#8 ++ s.regs.c) } 1 2)) ∧
    (Encodes .ldAHli [0x2A] ∧
      exec .ldAHli s = .next (s.afterRead.ended
        ({ s.regs with a := s.yield.peek (s.regs.r16 .hl) }.setR16 .hl (s.regs.r16 .hl + 1)) 1 2)) ∧
    (Encodes .ldAHld [0x3A] ∧
      exec .ldAHld s = .next (s.afterRead.ended
        ({ s.regs with a := s.yield.peek (s.regs.r16 .hl) }.setR16 .hl (s.regs.r16 .hl - 1)) 1 2))

/-- R134, R135, R138, R139, R141, R143, R145, R146, R148, R151: stores to memory. -/
def Obligations.StoresToMemory : Prop :=
  ∀ s : State,
    (∀ r : Reg8, Encodes (.ldMR r) [0x70 + r.index] ∧
      exec (.ldMR r) s = .next ((s.afterWrite (s.regs.r16 .hl) (s.regs.r8 r)).ended s.regs 1 2)) ∧
    (∀ d : Byte, Encodes (.ldMI d) [0x36, d] ∧
      exec (.ldMI d) s = .next ((s.afterWrite (s.regs.r16 .hl) d).ended s.regs 2 3)) ∧
    (Encodes .ldBcA [0x02] ∧
      exec .ldBcA s = .next ((s.afterWrite (s.regs.r16 .bc) s.regs.a).ended s.regs 1 2)) ∧
    (Encodes .ldDeA [0x12] ∧
      exec .ldDeA s = .next ((s.afterWrite (s.regs.r16 .de) s.regs.a).ended s.regs 1 2)) ∧
    (∀ l h : Byte, Encodes (.ldA16A (h ++ l)) [0xEA, l, h] ∧
      exec (.ldA16A (h ++ l)) s = .next ((s.afterWrite (h ++ l) s.regs.a).ended s.regs 3 4)) ∧
    (∀ off : Byte, Encodes (.ldhA8A off) [0xE0, off] ∧
      exec (.ldhA8A off) s = .next ((s.afterWrite (0xFF#8 ++ off) s.regs.a).ended s.regs 2 3)) ∧
    (Encodes .ldCA [0xE2] ∧
      exec .ldCA s = .next ((s.afterWrite (0xFF#8 ++ s.regs.c) s.regs.a).ended s.regs 1 2)) ∧
    (Encodes .ldHliA [0x22] ∧
      exec .ldHliA s = .next ((s.afterWrite (s.regs.r16 .hl) s.regs.a).ended
        (s.regs.setR16 .hl (s.regs.r16 .hl + 1)) 1 2)) ∧
    (Encodes .ldHldA [0x32] ∧
      exec .ldHldA s = .next ((s.afterWrite (s.regs.r16 .hl) s.regs.a).ended
        (s.regs.setR16 .hl (s.regs.r16 .hl - 1)) 1 2)) ∧
    (∀ l h : Byte, Encodes (.ldA16Sp (h ++ l)) [0x08, l, h] ∧
      exec (.ldA16Sp (h ++ l)) s = .next
        (((s.afterWrite (h ++ l) (BitVec.ofNat 8 (s.regs.sp.toNat % 256))).afterWrite ((h ++ l) + 1)
          (BitVec.ofNat 8 (s.regs.sp.toNat / 256))).ended s.regs 3 5))

/-- R153, R211: the signed displacement is added modulo 65536; the flags are those of the unsigned addition of the low
byte of `SP` and the displacement byte. -/
def Obligations.StackPointerPlusDisplacement : Prop :=
  ∀ (s : State) (e : Byte), ∃ (v : Word) (f : Byte),
    (v.toNat : Int) = ((s.regs.sp.toNat : Int) + signed e) % 65536 ∧
    FlagsAre f false false (decide (15 < s.regs.sp.toNat % 16 + e.toNat % 16))
      (decide (255 < s.regs.sp.toNat % 256 + e.toNat)) ∧
    Encodes (.ldHlSpE8 e) [0xF8, e] ∧
    exec (.ldHlSpE8 e) s = .next (s.ended ({ s.regs with f := f }.setR16 .hl v) 2 3) ∧
    Encodes (.addSpE8 e) [0xE8, e] ∧
    exec (.addSpE8 e) s = .next (s.ended { s.regs with f := f, sp := v } 2 4)

/-! ## Frames -/

/-- The memory frame of every instruction but the bare prefix: with no other agent moving, every address whose storage
is none of the instruction's stored addresses reads as before. A cartridge that is not the flat one may answer a write
to its windows by changing what its windows read. -/
def Obligations.MemoryFrame : Prop :=
  ∀ (i : Instr) (s t : State), i ≠ .prefixCb → s.quiet = true → exec i s = .next t →
    ∀ a : Word, (∀ b ∈ storesOf i s, storageKey b ≠ storageKey a) →
      (s.params.cart = .flat ∨ isCart a = false ∨ ∀ b ∈ storesOf i s, isCart b = false) → t.stored a = s.stored a

/-- The rest of the frame of every instruction: with no other agent moving, the engines, the picture, the gate and the
parameters are as before; only `DI`, `EI` and `RETI` touch the interrupt gate, and only `HALT` halts. -/
def Obligations.EngineFrame : Prop :=
  ∀ (i : Instr) (s t : State), s.quiet = true → exec i s = .next t →
    t.timer = s.timer ∧ t.ppu = s.ppu ∧ t.framebuffer = s.framebuffer ∧ t.joypad = s.joypad ∧
    t.stepMode = s.stepMode ∧ t.hostPos = s.hostPos ∧ t.params = s.params ∧ t.turns = s.turns ∧
    t.cpuParked = s.cpuParked ∧ t.cpuPos = s.cpuPos ∧ t.io.ly = s.io.ly ∧ t.io.mode = s.io.mode ∧
    t.io.coincidence = s.io.coincidence ∧
    (i ≠ .di → i ≠ .ei → i ≠ .reti → t.ime = s.ime ∧ t.imeDelay = s.imeDelay) ∧
    (i ≠ .halt → t.halted = s.halted) ∧
    (i ≠ .prefixCb → (∀ b ∈ storesOf i s, b ≠ 0xFF0F) → t.irqLatch = s.irqLatch) ∧
    (i ≠ .prefixCb → (∀ b ∈ storesOf i s, b ≠ 0xFF07) → t.timerEnableLatch = s.timerEnableLatch)

/-! ## The stack -/

/-- R170, R171, R172: a push writes the high byte first, a pop reads the low byte first. -/
def Obligations.PushAndPop : Prop :=
  ∀ (s : State) (rr : Reg16),
    (rr.inRp2 = true → Encodes (.pushRr rr) [0xC5 + 16 * rr.index] ∧ Encodes (.popRr rr) [0xC1 + 16 * rr.index]) ∧
    exec (.pushRr rr) s = .next ((s.afterPush (s.regs.r16 rr)).ended { s.regs with sp := s.regs.sp - 2 } 1 4) ∧
    exec (.popRr rr) s =
      .next (s.afterRead.afterRead.ended ({ s.regs with sp := s.regs.sp + 2 }.setR16 rr s.popped) 1 3)

/-- R173: a push and then a pop of a pair restores its value and leaves `SP` unchanged, for every pair, whenever the two
bytes below `SP` are plain storage and no other agent moves. -/
def Obligations.PushPopRoundTrip : Prop :=
  ∀ (s : State) (rr : Reg16), rr.inRp2 = true → s.quiet = true → s.regs.f &&& 0x0F = 0 →
    isPlain (s.regs.sp - 1) = true → isPlain (s.regs.sp - 2) = true →
    ∃ t u : State, exec (.pushRr rr) s = .next t ∧ exec (.popRr rr) t = .next u ∧
      u.regs.r16 rr = s.regs.r16 rr ∧ u.regs.sp = s.regs.sp

/-! ## 8-bit arithmetic and logic -/

/-- R181, R182, R183: `ADD` and `ADC` in their three forms. -/
def Obligations.AddAndAdc : Prop :=
  AccForms .addR .addM .addI 0 (AddsTo 0) ∧
    AccForms .adcR .adcM .adcI 1 (fun g o g' => AddsTo (carryOf g.f).toNat g o g')

/-- R181, R184, R185, R189: `SUB`, `SBC` and `CP` in their three forms. -/
def Obligations.SubSbcAndCp : Prop :=
  AccForms .subR .subM .subI 2 (SubtractsFrom 0) ∧
    AccForms .sbcR .sbcM .sbcI 3 (fun g o g' => SubtractsFrom (carryOf g.f).toNat g o g') ∧
    AccForms .cpR .cpM .cpI 7 Compares

/-- R181, R186, R187, R188: `AND`, `XOR` and `OR` in their three forms. -/
def Obligations.AndXorAndOr : Prop :=
  AccForms .andR .andM .andI 4 (Combines (· && ·) true) ∧
    AccForms .xorR .xorM .xorI 5 (Combines (· ^^ ·) false) ∧
    AccForms .orR .orM .orI 6 (Combines (· || ·) false)

/-- R190 to R193: increment and decrement of a register and of the byte at `x[HL]`. -/
def Obligations.IncrementAndDecrement : Prop :=
  ∀ s : State,
    (∀ r : Reg8, Encodes (.incR r) [0x04 + 8 * r.index] ∧ Encodes (.decR r) [0x05 + 8 * r.index] ∧
      (∃ v f : Byte, Steps true s.regs.f (s.regs.r8 r) v f ∧
        exec (.incR r) s = .next (s.ended { s.regs.setR8 r v with f := f } 1 1)) ∧
      (∃ v f : Byte, Steps false s.regs.f (s.regs.r8 r) v f ∧
        exec (.decR r) s = .next (s.ended { s.regs.setR8 r v with f := f } 1 1))) ∧
    (Encodes .incM [0x34] ∧ Encodes .decM [0x35]) ∧
    (∃ v f : Byte, Steps true s.regs.f (s.yield.peek (s.regs.r16 .hl)) v f ∧
      exec .incM s = .next ((s.afterRead.afterWrite (s.regs.r16 .hl) v).ended { s.regs with f := f } 1 3)) ∧
    (∃ v f : Byte, Steps false s.regs.f (s.yield.peek (s.regs.r16 .hl)) v f ∧
      exec .decM s = .next ((s.afterRead.afterWrite (s.regs.r16 .hl) v).ended { s.regs with f := f } 1 3))

/-- R194, R322: `DAA` on a key in a row of the table adds the row's constant, clears Half-carry and keeps Negative; on a
key in no row it raises the fault with its context and writes nothing else. -/
def Obligations.DecimalAdjust : Prop :=
  Encodes .daa [0x27] ∧ ∀ s : State,
    match daaRow s.regs.a s.regs.f with
    | some row => ∃ v f : Byte, v.toNat = (s.regs.a.toNat + row.add.toNat) % 256 ∧
        FlagsAre f (decide (v.toNat = 0)) (negativeOf s.regs.f) false row.carryAfter ∧
        exec .daa s = .next (s.ended { s.regs with a := v, f := f } 1 1)
    | none => exec .daa s =
        .next { s with cpuFault := some (.daaTableMiss s.regs.pc s.regs.a s.regs.f) }

/-- R195: the rows are disjoint, the keys of the table are these, and on each of them the new `A` and the new Carry are
those of the total algorithm the rule quotes. -/
def Obligations.DecimalAdjustRows : Prop :=
  ∀ a f : Byte,
    let high := a.toNat / 16
    let low := a.toNat % 16
    ((daaTable.filter (fun r => r.covers a f)).length ≤ 1) ∧
    ((daaRow a f).isSome = true ↔
      match negativeOf f, carryOf f, halfOf f with
      | false, false, false => True
      | false, false, true => low ≤ 3
      | false, true, false => high ≤ 2
      | false, true, true => high ≤ 3 ∧ low ≤ 3
      | true, false, false => high ≤ 9 ∧ low ≤ 9
      | true, false, true => high ≤ 8 ∧ 6 ≤ low
      | true, true, false => 7 ≤ high ∧ low ≤ 9
      | true, true, true => 6 ≤ high ∧ 6 ≤ low) ∧
    ∀ row, daaRow a f = some row →
      let lowAdd := if negativeOf f then (if halfOf f then 250 else 0) else (if halfOf f || 9 < low then 6 else 0)
      let highAdd := if negativeOf f then (if carryOf f then 160 else 0)
        else (if carryOf f || 0x99 < a.toNat then 96 else 0)
      (a.toNat + row.add.toNat) % 256 = (a.toNat + lowAdd + highAdd) % 256 ∧
      row.carryAfter = if negativeOf f then carryOf f else (carryOf f || decide (0x99 < a.toNat))

/-- R196, R197, R198: `CPL`, `SCF` and `CCF`. -/
def Obligations.FlagInstructions : Prop :=
  Encodes .cpl [0x2F] ∧ Encodes .scf [0x37] ∧ Encodes .ccf [0x3F] ∧ ∀ s : State,
    (∃ v f : Byte, v.toNat = 255 - s.regs.a.toNat ∧ FlagsAre f (zeroOf s.regs.f) true true (carryOf s.regs.f) ∧
      exec .cpl s = .next (s.ended { s.regs with a := v, f := f } 1 1)) ∧
    (∃ f : Byte, FlagsAre f (zeroOf s.regs.f) false false true ∧
      exec .scf s = .next (s.ended { s.regs with f := f } 1 1)) ∧
    (∃ f : Byte, FlagsAre f (zeroOf s.regs.f) false false (!carryOf s.regs.f) ∧
      exec .ccf s = .next (s.ended { s.regs with f := f } 1 1))

/-! ## 16-bit arithmetic -/

/-- R210, R212, R213: `ADD HL,rr` leaves Zero alone; `INC rr` and `DEC rr` touch no flag. -/
def Obligations.PairArithmetic : Prop :=
  ∀ (s : State) (rr : Reg16), rr.inRp = true →
    Encodes (.addHlRr rr) [0x09 + 16 * rr.index] ∧ Encodes (.incRr rr) [0x03 + 16 * rr.index] ∧
    Encodes (.decRr rr) [0x0B + 16 * rr.index] ∧
    (∃ (v : Word) (f : Byte), v.toNat = ((s.regs.r16 .hl).toNat + (s.regs.r16 rr).toNat) % 65536 ∧
      FlagsAre f (zeroOf s.regs.f) false
        (decide (0x0FFF < (s.regs.r16 .hl).toNat % 4096 + (s.regs.r16 rr).toNat % 4096))
        (decide (0xFFFF < (s.regs.r16 .hl).toNat + (s.regs.r16 rr).toNat)) ∧
      exec (.addHlRr rr) s = .next (s.ended ({ s.regs with f := f }.setR16 .hl v) 1 2)) ∧
    (∃ v : Word, v.toNat = ((s.regs.r16 rr).toNat + 1) % 65536 ∧
      exec (.incRr rr) s = .next (s.ended (s.regs.setR16 rr v) 1 2)) ∧
    (∃ v : Word, (v.toNat : Int) = ((s.regs.r16 rr).toNat - 1 : Int) % 65536 ∧
      exec (.decRr rr) s = .next (s.ended (s.regs.setR16 rr v) 1 2))

/-! ## Control flow -/

/-- R221 to R225: jumps. A relative target counts from the next instruction; the untaken conditional advances `pc` by the
length at the lower cost. -/
def Obligations.Jumps : Prop :=
  ∀ s : State,
    (∀ l h : Byte, Encodes (.jp (h ++ l)) [0xC3, l, h] ∧
      exec (.jp (h ++ l)) s = .next (s.went { s.regs with pc := h ++ l } 4)) ∧
    (∀ (cc : Cond) (l h : Byte), Encodes (.jpCc cc (h ++ l)) [0xC2 + 8 * cc.index, l, h] ∧
      exec (.jpCc cc (h ++ l)) s = .next (if condition cc s.regs.f then s.went { s.regs with pc := h ++ l } 4
        else s.ended s.regs 3 3)) ∧
    (Encodes .jpHl [0xE9] ∧ exec .jpHl s = .next (s.went { s.regs with pc := s.regs.r16 .hl } 1)) ∧
    (∀ e : Byte, ∃ target : Word, (target.toNat : Int) = ((s.regs.pc.toNat : Int) + 2 + signed e) % 65536 ∧
      Encodes (.jr e) [0x18, e] ∧ exec (.jr e) s = .next (s.went { s.regs with pc := target } 3) ∧
      ∀ cc : Cond, Encodes (.jrCc cc e) [0x20 + 8 * cc.index, e] ∧
        exec (.jrCc cc e) s = .next (if condition cc s.regs.f then s.went { s.regs with pc := target } 3
          else s.ended s.regs 2 2))

/-- R226, R227, R232: calls and restarts push the address of the next instruction. -/
def Obligations.Calls : Prop :=
  ∀ s : State,
    (∀ l h : Byte, Encodes (.call (h ++ l)) [0xCD, l, h] ∧
      exec (.call (h ++ l)) s =
        .next ((s.afterPush (s.regs.pc + 3)).went { s.regs with sp := s.regs.sp - 2, pc := h ++ l } 6)) ∧
    (∀ (cc : Cond) (l h : Byte), Encodes (.callCc cc (h ++ l)) [0xC4 + 8 * cc.index, l, h] ∧
      exec (.callCc cc (h ++ l)) s = .next (if condition cc s.regs.f then
          (s.afterPush (s.regs.pc + 3)).went { s.regs with sp := s.regs.sp - 2, pc := h ++ l } 6
        else s.ended s.regs 3 3)) ∧
    (∀ y : Nat, y < 8 → Encodes (.rst (BitVec.ofNat 8 (8 * y))) [BitVec.ofNat 8 (0xC7 + 8 * y)] ∧
      exec (.rst (BitVec.ofNat 8 (8 * y))) s =
        .next ((s.afterPush (s.regs.pc + 1)).went
          { s.regs with sp := s.regs.sp - 2, pc := BitVec.ofNat 16 (8 * y) } 4))

/-- R228, R229, R231: returns pop `pc`; `RETI` also opens the interrupt gate at once. -/
def Obligations.Returns : Prop :=
  Encodes .ret [0xC9] ∧ Encodes .reti [0xD9] ∧ ∀ s : State,
    exec .ret s = .next (s.afterRead.afterRead.went { s.regs with sp := s.regs.sp + 2, pc := s.popped } 4) ∧
    exec .reti s = .next { s.afterRead.afterRead.went { s.regs with sp := s.regs.sp + 2, pc := s.popped } 4 with
      ime := true, imeDelay := 0 } ∧
    ∀ cc : Cond, Encodes (.retCc cc) [0xC0 + 8 * cc.index] ∧
      exec (.retCc cc) s = .next (if condition cc s.regs.f then
          s.afterRead.afterRead.went { s.regs with sp := s.regs.sp + 2, pc := s.popped } 5
        else s.ended s.regs 1 2)

/-! ## Rotates, shifts and bits -/

/-- R241 to R244: the accumulator-only rotates clear Zero whatever the result. -/
def Obligations.AccumulatorRotates : Prop :=
  AccRotate .rlca 0x07 0 ∧ AccRotate .rrca 0x0F 1 ∧ AccRotate .rla 0x17 2 ∧ AccRotate .rra 0x1F 3

/-- R240, R245 to R252: the general rotates and shifts, of a register and of the byte at `x[HL]`. -/
def Obligations.RotatesAndShifts : Prop :=
  RotForms .rlcR .rlcM 0 ∧ RotForms .rrcR .rrcM 1 ∧ RotForms .rlR .rlM 2 ∧ RotForms .rrR .rrM 3 ∧
    RotForms .slaR .slaM 4 ∧ RotForms .sraR .sraM 5 ∧ RotForms .swapR .swapM 6 ∧ RotForms .srlR .srlM 7

/-- R261, R262, R263: bit test, reset and set, of a register and of the byte at `x[HL]`. -/
def Obligations.BitInstructions : Prop :=
  ∀ (s : State) (b : BitVec 3),
    (∀ r : Reg8,
      Encodes (.bitR b r) [0xCB, BitVec.ofNat 8 (0x40 + 8 * b.toNat) + r.index] ∧
      Encodes (.resR b r) [0xCB, BitVec.ofNat 8 (0x80 + 8 * b.toNat) + r.index] ∧
      Encodes (.setR b r) [0xCB, BitVec.ofNat 8 (0xC0 + 8 * b.toNat) + r.index] ∧
      (∃ f : Byte, FlagsAre f (!(s.regs.r8 r).getLsbD b.toNat) false true (carryOf s.regs.f) ∧
        exec (.bitR b r) s = .next (s.ended { s.regs with f := f } 2 2)) ∧
      (∃ v : Byte, (∀ k, k < 8 → v.getLsbD k = ((s.regs.r8 r).getLsbD k && decide (k ≠ b.toNat))) ∧
        exec (.resR b r) s = .next (s.ended (s.regs.setR8 r v) 2 2)) ∧
      (∃ v : Byte, (∀ k, k < 8 → v.getLsbD k = ((s.regs.r8 r).getLsbD k || decide (k = b.toNat))) ∧
        exec (.setR b r) s = .next (s.ended (s.regs.setR8 r v) 2 2))) ∧
    Encodes (.bitM b) [0xCB, BitVec.ofNat 8 (0x46 + 8 * b.toNat)] ∧
    Encodes (.resM b) [0xCB, BitVec.ofNat 8 (0x86 + 8 * b.toNat)] ∧
    Encodes (.setM b) [0xCB, BitVec.ofNat 8 (0xC6 + 8 * b.toNat)] ∧
    (∃ f : Byte, FlagsAre f (!(s.yield.peek (s.regs.r16 .hl)).getLsbD b.toNat) false true (carryOf s.regs.f) ∧
      exec (.bitM b) s = .next (s.afterRead.ended { s.regs with f := f } 2 3)) ∧
    (∃ v : Byte, (∀ k, k < 8 → v.getLsbD k = ((s.yield.peek (s.regs.r16 .hl)).getLsbD k && decide (k ≠ b.toNat))) ∧
      exec (.resM b) s = .next ((s.afterRead.afterWrite (s.regs.r16 .hl) v).ended s.regs 2 4)) ∧
    (∃ v : Byte, (∀ k, k < 8 → v.getLsbD k = ((s.yield.peek (s.regs.r16 .hl)).getLsbD k || decide (k = b.toNat))) ∧
      exec (.setM b) s = .next ((s.afterRead.afterWrite (s.regs.r16 .hl) v).ended s.regs 2 4))

/-! ## System instructions -/

/-- R270, R271, R272: `NOP`, `DI` and `EI`, the last by the parameter `EI_DELAY`, with the countdown at the end of every
iteration's execute phase; and `HALT` as far as its own iteration goes (R273). -/
def Obligations.GateInstructions : Prop :=
  Encodes .nop [0x00] ∧ Encodes .di [0xF3] ∧ Encodes .ei [0xFB] ∧ Encodes .halt [0x76] ∧ ∀ s : State,
    exec .nop s = .next (s.ended s.regs 1 1) ∧
    exec .di s = .next { s.ended s.regs 1 1 with ime := false, imeDelay := 0 } ∧
    exec .halt s = .next { s.ended s.regs 1 1 with halted := true } ∧
    exec .ei s = .next (
      if s.params.eiDelay = true then
        (if s.ime = false ∧ s.imeDelay = 0 then { s.ended s.regs 1 1 with imeDelay := 2 } else s.ended s.regs 1 1)
      else { s.ended s.regs 1 1 with ime := true }) ∧
    (s.cpuFault = none →
      (s.imeDelay = 0 → s.countImeDelay = s) ∧
      (s.imeDelay = 1 → s.countImeDelay = { s with imeDelay := 0, ime := true }) ∧
      (2 ≤ s.imeDelay → s.countImeDelay = { s with imeDelay := s.imeDelay - 1 }))

/-- R272, R432: with `EI_DELAY = 1` the gate is still closed when the iteration of `EI` ends, and it is open when the
iteration of the next instruction ends, whatever that is but a `DI` or a faulting one. -/
def Obligations.GateOpensAfterNext : Prop :=
  ∀ (s t u : State) (j : Instr), s.params.eiDelay = true → s.ime = false → s.imeDelay = 0 → s.cpuFault = none →
    exec .ei s = .next t → exec j t.countImeDelay = .next u → u.cpuFault = none → j ≠ .di →
    t.countImeDelay.ime = false ∧ u.countImeDelay.ime = true

/-- R274, R276, R321, R324: `STOP` and the undefined opcodes raise their fatal fault and write nothing else: `pc`, the
registers, `cycles` and the memory stay. -/
def Obligations.FatalInstructions : Prop :=
  ∀ s : State,
    (∀ n : Byte, Encodes (.stop n) [0x10, n] ∧
      exec (.stop n) s = .next { s with cpuFault := some (.stopUnimplemented s.regs.pc) }) ∧
    ∀ p ∈ [(Instr.illegalD3, 0xD3#8), (.illegalDB, 0xDB#8), (.illegalDD, 0xDD#8), (.illegalE3, 0xE3#8),
        (.illegalE4, 0xE4#8), (.illegalEB, 0xEB#8), (.illegalEC, 0xEC#8), (.illegalED, 0xED#8), (.illegalF4, 0xF4#8),
        (.illegalFC, 0xFC#8), (.illegalFD, 0xFD#8)],
      Encodes p.1 [p.2] ∧ exec p.1 s = .next { s with cpuFault := some (.illegalOpcode s.regs.pc p.2) }

/-- R275, R323: the prefix on its own reads its second byte at `pc + 1` and does what the prefixed instruction does; at
`0xFFFF` there is no second byte. -/
def Obligations.Prefix : Prop :=
  ∀ s : State,
    (s.regs.pc = 0xFFFF → exec .prefixCb s = .next { s with cpuFault := some (.decodeOutOfBounds 0xFFFF) }) ∧
    (s.regs.pc ≠ 0xFFFF → ∃ (i : Instr) (t : State), decode [0xCB, s.yield.peek (s.regs.pc + 1)] = .ok (i, []) ∧
      i ≠ .prefixCb ∧ exec i s.afterRead = .next t ∧ exec .prefixCb s = .next t)

/-! ## Interrupts and faults -/

/-- R303, R310: interrupt entry pushes `pc`, jumps to the vector, clears the request and closes the gate. -/
def Obligations.InterruptEntry : Prop :=
  ∀ (s : State) (i : Nat), i < 5 →
    s.interruptEntry i =
      let t := (s.afterPush s.regs.pc).yield
      { t with
        regs := { s.regs with sp := s.regs.sp - 2, pc := BitVec.ofNat 16 (0x40 + 8 * i) },
        io := { t.io with ifr := BitVec.ofNat 5 (t.io.ifr.toNat - if t.io.ifr.getLsbD i then 2 ^ i else 0) },
        ime := false,
        cycles := s.cycles + s.params.intDispatchCycles }

/-- R307, R309: with no other agent moving, the check enters the lowest pending and enabled source if the gate is open,
and nothing otherwise; it looks at bits 4 to 0 only. -/
def Obligations.InterruptCheck : Prop :=
  ∀ s : State, s.quiet = true →
    ((s.ime = false ∨ ∀ i, i < 5 → ¬ (s.io.ifr.getLsbD i = true ∧ s.io.ie.getLsbD i = true)) →
      s.checkInterrupts = { s with draws := s.draws + 2 }) ∧
    (∀ i, i < 5 → s.ime = true → s.io.ifr.getLsbD i = true → s.io.ie.getLsbD i = true →
      (∀ j, j < i → ¬ (s.io.ifr.getLsbD j = true ∧ s.io.ie.getLsbD j = true)) →
      s.checkInterrupts = { s with draws := s.draws + 2 }.interruptEntry i)

/-- R304, R306: a raise sets its bit of `IF`, whatever `IE` and `IME` hold, and then the latch; the other requests stay.
When a key whose line is selected in `P1` (a select bit of 0: bit 4 of `P1` for the direction keys, bit 5 for the others,
R35) goes down the host raises the Joypad source; a key of no selected line, a key that was down already and a key that
goes up request nothing; and no other key changes. The host raises the serial source when it sets bit 3. That the key,
the `IoOr` and the latch are three actions is log entry 17, that the serial bit is set by a raise is log entry 29. -/
def Obligations.InterruptRequests : Prop :=
  ∀ s : State,
    (∀ i, i < 5 → (s.raiseIf i).fireIrq =
      { s with io := { s.io with ifr := s.io.ifr ||| BitVec.ofNat 5 (2 ^ i) }, irqLatch := true }) ∧
    (s.hostPos = .idle → ∀ (k : Key) (down : Bool),
      let t := s.hostAction (.key k down)
      let u := t.hostAction .proceed
      let deselected := match k with
        | .right | .left | .up | .down => s.io.p1Sel.getLsbD 0
        | .a | .b | .select | .start => s.io.p1Sel.getLsbD 1
      keyIsDown t.joypad k = down ∧ (∀ j, j ≠ k → keyIsDown t.joypad j = keyIsDown s.joypad j) ∧
      t.io = s.io ∧ t.irqLatch = s.irqLatch ∧
      (down = true → keyIsDown s.joypad k = false → deselected = false →
        u.io = { s.io with ifr := s.io.ifr ||| 0b10000 } ∧ u.irqLatch = s.irqLatch ∧
        (u.hostAction .proceed).io = u.io ∧ (u.hostAction .proceed).irqLatch = true ∧
        (u.hostAction .proceed).hostPos = .idle) ∧
      ((down = false ∨ keyIsDown s.joypad k = true ∨ deselected = true) → t.hostPos = .idle ∧ u = t)) ∧
    (s.hostPos = .idle →
      let t := s.hostAction .raiseSerial
      t.io = { s.io with ifr := s.io.ifr ||| 0b01000 } ∧ (t.hostAction .proceed).irqLatch = true ∧
        (t.hostAction .proceed).io = t.io)

/-- R308: a halted CPU with its wake condition false takes no step; a wake clears `halted` and the latch, and `IME` is no
part of either. -/
def Obligations.HaltWake : Prop :=
  ∀ s : State, s.halted = true →
    (s.cpuCanStep = true → s.wake = { s.yield with halted := false, irqLatch := false } ∧
      (s.params.haltWake = .latch → s.irqLatch = true) ∧
      (s.params.haltWake = .pending → ∃ i, i < 5 ∧ s.io.ifr.getLsbD i = true ∧ s.io.ie.getLsbD i = true)) ∧
    (s.params.haltWake = .latch → s.irqLatch = true → s.cpuFault = none → s.cpuParked = false →
      s.cpuCanStep = true) ∧
    (s.params.haltWake = .pending →
      (∃ i, i < 5 ∧ s.io.ifr.getLsbD i = true ∧ s.io.ie.getLsbD i = true) → s.cpuFault = none →
      s.cpuParked = false → s.cpuCanStep = true)

/-- R308, R405: the interrupt-received latch is cleared only by a halted CPU that wakes: a step in which the CPU is not
halted, or in which it takes no action (faulted, parked, not its turn, or halted with its wake condition false), never
loses it. A CPU that takes no action stays halted or running as it was. -/
def Obligations.LatchIsKept : Prop :=
  ∀ s t : State, step s = .next t →
    (s.irqLatch = true → (s.halted = false ∨ s.cpuMoves = false) → t.irqLatch = true) ∧
    (s.cpuMoves = false → t.halted = s.halted ∧ t.regs = s.regs ∧ t.cycles = s.cycles ∧ t.cpuPos = s.cpuPos)

/-- R30, R320: after a fatal fault the CPU takes no further step: no step changes its registers, its gate, its cycle
counter or the recorded fault. -/
def Obligations.FaultIsFinal : Prop :=
  ∀ s t : State, step s = .next t → s.cpuFault ≠ none →
    t.cpuFault = s.cpuFault ∧ t.regs = s.regs ∧ t.ime = s.ime ∧ t.imeDelay = s.imeDelay ∧ t.halted = s.halted ∧
      t.cycles = s.cycles

/-- R323: an instruction whose bytes run past `0xFFFF` is a fault, raised before any byte but the first is read; its
context is the address, and nothing else is written. An undefined opcode there is the other fault. -/
def Obligations.DecodeOutOfBounds : Prop :=
  ∀ s : State, 0xFFFF < s.regs.pc.toNat + opLength (s.yield.peek s.regs.pc) - 1 →
    s.decodeAndExecute = .next { s.afterRead with cpuFault := some (.decodeOutOfBounds s.regs.pc) }

/-- No step of the machine ends in a fault or a refusal: every instruction, the faulting ones too, answers a next state
(log entry 7), so a run never stops. -/
def Obligations.EveryStepAnswers : Prop := ∀ s : State, ∃ t : State, step s = .next t

/-! ## The Bus -/

/-- R62: the routing table: every address lies in exactly one region. -/
def Obligations.Routing : Prop :=
  ∀ a : Word,
    (region a = .cartRom ↔ a.toNat ≤ 0x7FFF) ∧
    (region a = .vram ↔ 0x8000 ≤ a.toNat ∧ a.toNat ≤ 0x9FFF) ∧
    (region a = .cartRam ↔ 0xA000 ≤ a.toNat ∧ a.toNat ≤ 0xBFFF) ∧
    (region a = .wram ↔ 0xC000 ≤ a.toNat ∧ a.toNat ≤ 0xDFFF) ∧
    (region a = .wramAlias ↔ 0xE000 ≤ a.toNat ∧ a.toNat ≤ 0xFDFF) ∧
    (region a = .oam ↔ 0xFE00 ≤ a.toNat ∧ a.toNat ≤ 0xFE9F) ∧
    (region a = .reserved ↔ 0xFEA0 ≤ a.toNat ∧ a.toNat ≤ 0xFEFF) ∧
    (region a = .io ↔ 0xFF00 ≤ a.toNat ∧ a.toNat ≤ 0xFF7F) ∧
    (region a = .hram ↔ 0xFF80 ≤ a.toNat ∧ a.toNat ≤ 0xFFFE) ∧
    (region a = .ie ↔ a.toNat = 0xFFFF)

/-- R49, R62, R63, R66: the reserved window reads `0xFF` and drops writes; the flat cartridge drops writes and its RAM
window reads `0xFF`; a byte of plain storage reads as written, at its own address and, for work RAM and its alias, at the
other one; so does an I/O byte that is no designated register, but for `0xFF04` under `DIV_FREE_RUNNING`, where a write of
any value stores 0. -/
def Obligations.ReadAfterWrite : Prop :=
  ∀ (s : State) (a : Word) (v : Byte),
    (region a = .reserved → s.peek a = 0xFF ∧ s.poke a v = s) ∧
    (s.params.cart = .flat → isCart a = true → s.poke a v = s) ∧
    (s.params.cart = .flat → region a = .cartRam → s.peek a = 0xFF) ∧
    (isPlain a = true → (s.poke a v).peek a = v ∧
      ∀ b : Word, ((a.toNat < 0xDE00 ∧ b.toNat = a.toNat + 0x2000 ∧ region a = .wram) ∨
          (region a = .wramAlias ∧ b.toNat + 0x2000 = a.toNat)) →
        (s.poke a v).peek b = v) ∧
    (region a = .io → a.toNat ∉ designatedAddresses →
      (s.poke a v).peek a = (if a = 0xFF04 ∧ s.params.divFreeRunning = true then 0 else v)) ∧
    ((s.poke 0xFFFF v).peek 0xFFFF = v)

/-- R35 to R47: what a CPU write stores in each designated register, and its side effects. -/
def Obligations.RegisterWrites : Prop :=
  ∀ (s : State) (v : Byte),
    s.poke 0xFF00 v = { s with io := { s.io with p1Sel := BitVec.ofNat 2 (v.toNat / 16) } } ∧
    s.poke 0xFF05 v = { s with io := { s.io with tima := v } } ∧
    s.poke 0xFF06 v = { s with io := { s.io with tma := v } } ∧
    s.poke 0xFF07 v = { s with
      io := { s.io with tac := BitVec.ofNat 3 v.toNat },
      timerEnableLatch := s.timerEnableLatch || v.getLsbD 2 } ∧
    s.poke 0xFF0F v = { s with
      io := { s.io with ifr := BitVec.ofNat 5 v.toNat },
      irqLatch := s.irqLatch || decide (v.toNat % 32 ≠ 0) } ∧
    s.poke 0xFF40 v = { s with io := { s.io with lcdc := v } } ∧
    s.poke 0xFF41 v = { s with io := { s.io with
      stat := BitVec.ofNat 7 (v.toNat / 8 % 16 * 8 + s.io.stat.toNat % 8) } } ∧
    s.poke 0xFF42 v = { s with io := { s.io with scy := v } } ∧
    s.poke 0xFF43 v = { s with io := { s.io with scx := v } } ∧
    s.poke 0xFF44 v = s ∧
    s.poke 0xFF45 v = { s with io := { s.io with lyc := v } } ∧
    s.poke 0xFF47 v = { s with io := { s.io with bgp := v } } ∧
    s.poke 0xFF48 v = { s with io := { s.io with obp0 := v } } ∧
    s.poke 0xFF49 v = { s with io := { s.io with obp1 := v } } ∧
    s.poke 0xFF4A v = { s with io := { s.io with wy := v } } ∧
    s.poke 0xFF4B v = { s with io := { s.io with wx := v } } ∧
    s.poke 0xFFFF v = { s with io := { s.io with ie := v } }

/-- R34 to R47, R69: what the designated registers read as: the fully stored ones their stored byte; those with
unimplemented bits the stored and the input bits in their places, and the others by `UNUSED_IO_BITS`. A key that is down
on a selected line reads 0 in its bit of `P1`. -/
def Obligations.RegisterReads : Prop :=
  ∀ s : State,
    (s.peek 0xFF05 = s.io.tima ∧ s.peek 0xFF06 = s.io.tma ∧ s.peek 0xFF40 = s.io.lcdc ∧ s.peek 0xFF42 = s.io.scy ∧
      s.peek 0xFF43 = s.io.scx ∧ s.peek 0xFF44 = s.io.ly ∧ s.peek 0xFF45 = s.io.lyc ∧ s.peek 0xFF47 = s.io.bgp ∧
      s.peek 0xFF48 = s.io.obp0 ∧ s.peek 0xFF49 = s.io.obp1 ∧ s.peek 0xFF4A = s.io.wy ∧ s.peek 0xFF4B = s.io.wx ∧
      s.peek 0xFFFF = s.io.ie) ∧
    (s.peek 0xFF07).toNat % 8 = s.io.tac.toNat ∧ (s.peek 0xFF0F).toNat % 32 = s.io.ifr.toNat ∧
    (s.peek 0xFF41).toNat % 128 = s.io.stat.toNat ∧ (s.peek 0xFF00).toNat / 16 % 4 = s.io.p1Sel.toNat ∧
    (s.params.unusedIoBits = .ones → (s.peek 0xFF07).toNat / 8 = 31 ∧ (s.peek 0xFF0F).toNat / 32 = 7 ∧
      (s.peek 0xFF41).toNat / 128 = 1 ∧ (s.peek 0xFF00).toNat / 64 = 3) ∧
    ((s.peek 0xFF00).getLsbD 0 =
      !((!s.io.p1Sel.getLsbD 0 && s.joypad.right) || (!s.io.p1Sel.getLsbD 1 && s.joypad.a))) ∧
    ((s.peek 0xFF00).getLsbD 1 =
      !((!s.io.p1Sel.getLsbD 0 && s.joypad.left) || (!s.io.p1Sel.getLsbD 1 && s.joypad.b))) ∧
    ((s.peek 0xFF00).getLsbD 2 =
      !((!s.io.p1Sel.getLsbD 0 && s.joypad.up) || (!s.io.p1Sel.getLsbD 1 && s.joypad.select))) ∧
    ((s.peek 0xFF00).getLsbD 3 =
      !((!s.io.p1Sel.getLsbD 0 && s.joypad.down) || (!s.io.p1Sel.getLsbD 1 && s.joypad.start)))

/-! ## The Timer -/

/-- R391, R392, R393: one cycle of the Timer. A counting Timer checks `TAC` and ticks; an overflow reloads `TIMA` and
requests the Timer interrupt. A blocked Timer moves only on its latch, which the wake consumes; it starts counting from 0
if `TAC.ENABLE` is set, its first tick in the same cycle. R394, R49: with `DIV_FREE_RUNNING` every cycle counts toward
`DIV`, whatever the Timer does and `TAC` holds, and the byte at `0xFF04` goes up by one at every 64th; without it the
byte stands still; and the parameter changes nothing else. R408: so in every cycle of a Timer that does not test
`step_mode` or finds it clear; `Obligations.DebugGate` says what one does that finds it set. That a cycle unit of the count is a turn of its own under the
free schedule (`divAction`) is the model's choice (log entry 14). -/
def Obligations.TimerCycle : Prop :=
  (∀ (gate : Bool) (s : State), (gate = false ∨ s.stepMode = false) → s.timer.parked = false →
    s.params.divFreeRunning = false →
    (s.timer.pos = .counting → s.io.timerEnable = false →
      s.timerCycle gate = { s with timer := { s.timer with pos := .blocked } }) ∧
    (s.timer.pos = .counting → s.io.timerEnable = true → ∀ period : Nat,
      (s.io.tac.toNat % 4, period) ∈ [(0, 256), (1, 4), (2, 16), (3, 64)] →
      (s.timer.div + 1 < period →
        s.timerCycle gate = { s with timer := { s.timer with div := s.timer.div + 1 } }) ∧
      (period ≤ s.timer.div + 1 → s.io.tima ≠ 0xFF →
        s.timerCycle gate = { s with
          timer := { s.timer with div := 0 },
          io := { s.io with tima := s.io.tima + 1 } }) ∧
      (period ≤ s.timer.div + 1 → s.io.tima = 0xFF →
        s.timerCycle gate = { s with
          timer := { s.timer with div := 0 },
          io := { s.io with tima := s.io.tma, ifr := s.io.ifr ||| 0b00100 },
          irqLatch := true })) ∧
    (s.timer.pos = .blocked → s.timerEnableLatch = false → s.timerCycle gate = s) ∧
    (s.timer.pos = .blocked → s.timerEnableLatch = true → s.io.timerEnable = false →
      s.timerCycle gate = { s with timerEnableLatch := false }) ∧
    (s.timer.pos = .blocked → s.timerEnableLatch = true → s.io.timerEnable = true →
      s.timerCycle gate = { s with
        timerEnableLatch := false,
        timer := { s.timer with pos := .counting, div := 1 } })) ∧
  ∀ (gate : Bool) (s : State), (gate = false ∨ s.stepMode = false) → s.timer.parked = false →
    s.timer.divCount < 64 →
    (∀ n : Nat,
      let t := s.timerCycles gate n
      (s.params.divFreeRunning = true → t.timer.divCount = (s.timer.divCount + n) % 64 ∧
        t.peek 0xFF04 = s.peek 0xFF04 + BitVec.ofNat 8 ((s.timer.divCount + n) / 64)) ∧
      (s.params.divFreeRunning = false → t.timer.divCount = s.timer.divCount ∧ t.peek 0xFF04 = s.peek 0xFF04)) ∧
    (s.params.divFreeRunning = true →
      s.divAction.timer = { s.timer with divCount := (s.timer.divCount + 1) % 64 } ∧
      s.divAction.peek 0xFF04 = s.peek 0xFF04 + BitVec.ofNat 8 ((s.timer.divCount + 1) / 64)) ∧
    (let off := { s with params := { s.params with divFreeRunning := false } }
     let t := s.timerCycle gate
     let u := off.timerCycle gate
     t.io = u.io ∧ t.irqLatch = u.irqLatch ∧ t.timerEnableLatch = u.timerEnableLatch ∧
       { t.timer with divCount := 0 } = { u.timer with divCount := 0 } ∧
       ∀ a : Word, a ≠ 0xFF04 → t.stored a = u.stored a)

/-! ## The PPU -/

/-- R347, R348: entry `k` of OAM is the four bytes from `0xFE00 + 4*k` up, `y`, `x`, `tile` and `flags` in this order; the
objects of a line are the first 10 of the 40 entries, in index order, that cover it. -/
def Obligations.ObjectSelection : Prop :=
  ∀ (rd : Nat → Byte) (tall : Bool) (ly : Byte),
    (∀ k, k < 40 → (objEntry rd k).y = rd (0xFE00 + 4 * k) ∧ (objEntry rd k).x = rd (0xFE01 + 4 * k) ∧
      (objEntry rd k).tile = rd (0xFE02 + 4 * k) ∧ (objEntry rd k).flags = rd (0xFE03 + 4 * k) ∧
      (objEntry rd k).index = k) ∧
    (selectObjs rd tall ly).length ≤ 10 ∧
    (∀ o ∈ selectObjs rd tall ly, o.index < 40 ∧ o = objEntry rd o.index ∧ coversLine o tall ly.toNat) ∧
    ((selectObjs rd tall ly).map ObjEntry.index).Pairwise (· < ·) ∧
    (∀ k, k < 40 → coversLine (objEntry rd k) tall ly.toNat → objEntry rd k ∉ selectObjs rd tall ly →
      (selectObjs rd tall ly).length = 10 ∧ ∀ o ∈ selectObjs rd tall ly, o.index < k)

/-- R349: `line_objects` holds exactly the selected objects, in paint order: each later one has the higher priority, by
smaller `x` and then by smaller index. -/
def Obligations.ObjectOrder : Prop :=
  ∀ (rd : Nat → Byte) (tall : Bool) (ly : Byte),
    (lineObjects rd tall ly).Perm (selectObjs rd tall ly) ∧
    (lineObjects rd tall ly).Pairwise (fun o p => higherPriority p o)

/-- R351, R353, R359, R361: a line is 160 cells. With the LCD off all of them are shade 0 and the window is not drawn.
With it on, a column no object covers, or with objects off, is the background-or-window index through `BGP`; an object
whose pixel is opaque and not hidden by a non-zero background decides the shade over all objects painted before it; one
that is off the column, transparent there or hidden by its priority bit leaves the shade as it was. -/
def Obligations.Composition : Prop :=
  ∀ (rd : Nat → Byte) (r : LineRegs) (tall : Bool) (objs : List ObjEntry) (wy : Nat),
    (composeLine rd r tall objs wy).length = 160 ∧
    (r.lcdc.getLsbD 7 = false → composeLine rd r tall objs wy = List.replicate 160 0 ∧ windowDrawn r = false) ∧
    (r.lcdc.getLsbD 7 = true → ∀ col, col < 160 →
      let bgc := layerColour rd r wy col
      (((∀ o ∈ objs, ¬ (o.x.toNat ≤ col + 8 ∧ col < o.x.toNat)) ∨ r.lcdc.getLsbD 1 = false) →
        ((composeLine rd r tall objs wy).getD col 0).toNat = r.bgp.toNat / 4 ^ bgc.toNat % 4) ∧
      (∀ o : ObjEntry, r.lcdc.getLsbD 1 = true → o.x.toNat ≤ col + 8 → col < o.x.toNat →
        objectColour rd tall r.ly o col ≠ 0 → ¬ (o.flags.getLsbD 7 = true ∧ bgc ≠ 0) →
        ((composeLine rd r tall (objs ++ [o]) wy).getD col 0).toNat =
          (if o.flags.getLsbD 4 then r.obp1 else r.obp0).toNat / 4 ^ (objectColour rd tall r.ly o col).toNat % 4) ∧
      (∀ o : ObjEntry, (r.lcdc.getLsbD 1 = false ∨ ¬ (o.x.toNat ≤ col + 8 ∧ col < o.x.toNat) ∨
          objectColour rd tall r.ly o col = 0 ∨ (o.flags.getLsbD 7 = true ∧ bgc ≠ 0)) →
        (composeLine rd r tall (objs ++ [o]) wy).getD col 0 = (composeLine rd r tall objs wy).getD col 0))

/-- R352, R354 to R357, R360: the colour indices behind the composition, from the registers and video RAM. With
`LCDC.BG_ENABLE` clear the layer is 0 and there is no window; outside the window it is the scrolled background, which
wraps in both directions; inside it, the window's own row and column; the pixel of an object is taken from its row and
column within the object, flipped by its flags, a tall object from a pair of tiles. -/
def Obligations.PixelColours : Prop :=
  ∀ (rd : Nat → Byte) (r : LineRegs) (windowLine col : Nat), col < 160 →
    let inWindow := r.lcdc.getLsbD 5 = true ∧ r.wy.toNat ≤ r.ly.toNat ∧ r.wx.toNat ≤ col + 7
    (r.lcdc.getLsbD 0 = false → layerColour rd r windowLine col = 0) ∧
    (r.lcdc.getLsbD 0 = true → ¬ inWindow →
      let x := (r.scx.toNat + col) % 256
      let y := (r.scy.toNat + r.ly.toNat) % 256
      (layerColour rd r windowLine col).toNat =
        tilePixelNumber rd (tileStart r.lcdc (rd (mapEntry (r.lcdc.getLsbD 3) x y))) (x % 8) (y % 8)) ∧
    (r.lcdc.getLsbD 0 = true → inWindow →
      let x := col + 7 - r.wx.toNat
      (layerColour rd r windowLine col).toNat =
        tilePixelNumber rd (tileStart r.lcdc (rd (mapEntry (r.lcdc.getLsbD 6) x windowLine))) (x % 8)
          (windowLine % 8)) ∧
    (∀ (o : ObjEntry) (tall : Bool), coversLine o tall r.ly.toNat → o.x.toNat ≤ col + 8 → col < o.x.toNat →
      let x := col + 8 - o.x.toNat
      let y := r.ly.toNat + 16 - o.y.toNat
      let column := if o.flags.getLsbD 5 then 7 - x else x
      let row := if o.flags.getLsbD 6 then (if tall then 15 - y else 7 - y) else y
      (objectColour rd tall r.ly o col).toNat =
        tilePixelNumber rd (0x8000 + 16 * (if tall then o.tile.toNat / 2 * 2 + row / 8 else o.tile.toNat)) column
          (row % 8))

/-- R358: the window's line counter advances by one exactly when the window covered a column of the line composed, and
the line is written at its number. -/
def Obligations.WindowCounter : Prop :=
  ∀ s : State, s.ppu.pos = .pixelTransfer .write →
    let r := s.ppu.lineRegs
    let drawn := r.lcdc.getLsbD 7 = true ∧ r.lcdc.getLsbD 5 = true ∧ r.lcdc.getLsbD 0 = true ∧
      r.wy.toNat ≤ r.ly.toNat ∧ ∃ col, col < 160 ∧ r.wx.toNat ≤ col + 7
    (drawn → s.ppuMove.ppu.windowLine = s.ppu.windowLine + 1) ∧
    (¬ drawn → s.ppuMove.ppu.windowLine = s.ppu.windowLine) ∧
    listGet r.ly.toNat s.ppuMove.framebuffer = some s.ppu.line

/-- R345, R346, R350, R362: the start actions of OAM-search: mode 2, the interrupt if `STAT.OAM_INT` is set, and the
snapshot; those of pixel-transfer: mode 3, and the line `LY` of the picture is the one composed from the registers and
video RAM as they are, with the objects and the window's counter of this line, and no other line changes; and those of
HBlank: mode 0, and one STAT interrupt if HBlank's select is set, or the coincidence select with `LY` = `LYC`. That the
height, then `LY`, then the snapshot are read in this order is log entry 31; no action of another agent falls between
them here. R344, R402: a cycle of a PPU that holds a phase adds one to `ppu_dot` below the phase's budget, so a phase
holds for its budget; at the budget `ppu_dot` becomes 0, and the actions up to the next phase's boundary and then up to
its hold are performed, which for HBlank and VBlank are those of `Obligations.LineEnds`. That `ppu_dot` becomes 0 also
where a turn of the free schedule ends a hold before its budget is the model's reading (log entry 34). -/
def Obligations.PhaseStarts : Prop :=
  ∀ s : State,
    let t := s.ppuToHold false ppuFuel
    (s.ppu.pos = .oamSearch .start →
      t.ppu.pos = .oamSearch .hold ∧ t.io.mode = 2 ∧ t.ppu.tall = s.io.lcdc.getLsbD 2 ∧
      t.ppu.lineObjects = lineObjects s.cell (s.io.lcdc.getLsbD 2) s.io.ly ∧
      t.io.ifr = (if s.io.stat.getLsbD 5 then s.io.ifr ||| 0b00010 else s.io.ifr) ∧
      t.irqLatch = (s.irqLatch || s.io.stat.getLsbD 5) ∧ t.io.ly = s.io.ly ∧ t.framebuffer = s.framebuffer) ∧
    (s.ppu.pos = .pixelTransfer .start →
      let r : LineRegs := ⟨s.io.lcdc, s.io.scy, s.io.scx, s.io.wy, s.io.wx, s.io.bgp, s.io.obp0, s.io.obp1, s.io.ly⟩
      t.ppu.pos = .pixelTransfer .hold ∧ t.io.mode = 3 ∧ t.io.ly = s.io.ly ∧ t.io.ifr = s.io.ifr ∧
      t.irqLatch = s.irqLatch ∧ t.ppu.lineRegs = r ∧
      t.ppu.windowLine = (if windowDrawn r then s.ppu.windowLine + 1 else s.ppu.windowLine) ∧
      (∀ col, t.pixel s.io.ly.toNat col =
        (composeLine s.cell r s.ppu.tall s.ppu.lineObjects s.ppu.windowLine).getD col 0) ∧
      (∀ line col, line ≠ s.io.ly.toNat → t.pixel line col = s.pixel line col)) ∧
    (s.ppu.pos = .hBlank .start →
      let raised := s.io.stat.getLsbD 3 || (s.io.stat.getLsbD 6 && s.io.ly == s.io.lyc)
      t.ppu.pos = .hBlank .hold ∧ t.io.mode = 0 ∧
      t.io.ifr = (if raised then s.io.ifr ||| 0b00010 else s.io.ifr) ∧ t.irqLatch = (s.irqLatch || raised) ∧
      t.io.ly = s.io.ly) ∧
    (∀ (gate : Bool) (budget : Nat), s.ppu.parked = false → (gate = false ∨ s.stepMode = false) →
      (s.ppu.pos, budget) ∈ [(PpuPos.oamSearch .hold, s.params.phaseBudget.oamSearch),
        (.pixelTransfer .hold, s.params.phaseBudget.pixelTransfer), (.hBlank .hold, s.params.phaseBudget.hBlank),
        (.vBlank .hold, s.params.phaseBudget.vBlankLine)] →
      (∀ n, s.ppu.dot + n < budget → s.ppuCycles gate n = { s with ppu := { s.ppu with dot := s.ppu.dot + n } }) ∧
      (s.ppu.dot + 1 = budget →
        let u := s.ppuMove.ppuToBoundary ppuFuel
        s.ppuCycle gate = u.ppuToHold false ppuFuel ∧ (s.ppuCycle gate).ppu.dot = 0 ∧
        (s.ppu.pos = .oamSearch .hold →
          u = { s with ppu := { s.ppu with dot := 0, pos := .pixelTransfer .start } }) ∧
        (s.ppu.pos = .pixelTransfer .hold → u = { s with ppu := { s.ppu with dot := 0, pos := .hBlank .start } }))) ∧
    (s.ppu.parked = false → s.ppu.pos.isHold = true → s.ppuAction.ppu.dot = 0 ∧ s.ppuAction.ppu.pos.isHold = false)

/-- R363, R364, R365, R366: the end actions of HBlank and of a VBlank line. `LY` goes on by one, 153 being followed by 0;
the coincidence flag is recomputed and no interrupt is raised by that; line 144 enters VBlank with mode 1, the VBlank
interrupt and, by the parameter, the STAT one; after the tenth VBlank line a new frame starts with the window's counter
at 0. -/
def Obligations.LineEnds : Prop :=
  ∀ s : State,
    let u := s.ppuMove.ppuToBoundary ppuFuel
    let t := u.ppuToHold false ppuFuel
    let stat := s.params.ppuVblankStatInt && s.io.stat.getLsbD 4
    let next := if s.io.ly = 153 then 0 else s.io.ly + 1
    (s.ppu.pos = .hBlank .hold →
      u.io.ly = s.io.ly + 1 ∧ u.io.coincidence = (s.io.ly + 1 == s.io.lyc) ∧ u.io.ifr = s.io.ifr ∧
      u.irqLatch = s.irqLatch ∧
      (s.io.ly ≠ 143 → u.ppu.pos = .oamSearch .start) ∧
      (s.io.ly = 143 → u.ppu.pos = .vBlank .start ∧ t.ppu.pos = .vBlank .hold ∧ t.io.mode = 1 ∧
        t.ppu.vblankLine = 0 ∧ t.irqLatch = true ∧
        t.io.ifr = (if stat then s.io.ifr ||| 0b00011 else s.io.ifr ||| 0b00001))) ∧
    (s.ppu.pos = .vBlank .hold →
      u.io.ly = next ∧ u.io.coincidence = (next == s.io.lyc) ∧ u.io.ifr = s.io.ifr ∧ u.irqLatch = s.irqLatch ∧
      (s.ppu.vblankLine < 9 → u.ppu.pos = .vBlank .lineStart ∧ u.ppu.vblankLine = s.ppu.vblankLine + 1 ∧
        u.ppu.windowLine = s.ppu.windowLine) ∧
      (9 ≤ s.ppu.vblankLine → u.ppu.pos = .oamSearch .start ∧ u.ppu.windowLine = 0))

/-! ## Agents and schedule -/

/-- R81, R301: the engines, the host and the interleaving leave the CPU's registers, gate, fault and cycle counter
alone, and nothing changes the parameters. -/
def Obligations.EnginesLeaveTheCpu : Prop :=
  ∀ (s : State) (gate : Bool) (n : Nat) (u : Turn),
    (∀ t ∈ [s.ppuCycles gate n, s.timerCycles gate n, s.ppuAction, s.timerAction, s.divAction, s.perform u, s.yield],
      t.regs = s.regs ∧ t.ime = s.ime ∧ t.imeDelay = s.imeDelay ∧ t.halted = s.halted ∧ t.cpuFault = s.cpuFault ∧
        t.cycles = s.cycles ∧ t.params = s.params)

/-- R81: no store of the CPU, and no action of the Timer or the host, changes what the PPU alone writes: `LY`,
`STAT.MODE`, `STAT.COINCIDENCE`, the PPU's own state but its parking, and the framebuffer. -/
def Obligations.OnlyThePpuWritesItsState : Prop :=
  ∀ (s : State) (a : Word) (v : Byte) (u : Turn), u ≠ .ppu →
    ∀ t ∈ [s.poke a v, s.perform u],
      t.io.ly = s.io.ly ∧ t.io.mode = s.io.mode ∧ t.io.coincidence = s.io.coincidence ∧
        t.framebuffer = s.framebuffer ∧ { t.ppu with parked := false } = { s.ppu with parked := false }

/-- R300: a step of the machine with no turn listed runs the decoded instruction: after the wake and the interrupt check,
when the bytes at `pc` decode to an instruction, the step executes exactly that one, counts down `ime_delay` unless it
faulted, and gives the engines the cycles it took. R400: under the free schedule a step with a turn listed is that
agent's turn, used up: the next action of an engine or of the host, or an iteration of the CPU, if it can take one; and
at each bus action of an iteration the turns listed ahead of the CPU's next one are taken first. That the free schedule
is such a list, and what an agent without an enabled action does in its turn, is the model's choice (log entries 6, 26);
so is which inputs of the host come before a pass of the reference schedule, and that at launch
they come before the PPU's start action too (log entries 27, 35). -/
def Obligations.StepRunsDecodedInstruction : Prop :=
  (∀ (s : State) (i : Instr) (bytes : List Byte),
    s.turns = [] → s.settle.cpuCanStep = true → s.cpuPos = .top → s.settle.stepMode = false →
    let s1 := s.settle.beforeDecode
    bytes.length = opLength (s1.peek s1.regs.pc) →
    (∀ k, k < bytes.length →
      bytes[k]? = some (State.peek { s1 with draws := s1.draws + k } (s1.regs.pc + BitVec.ofNat 16 k))) →
    s1.regs.pc.toNat + bytes.length ≤ 65536 → decode bytes = .ok (i, []) →
    ∃ t, exec i { s1 with draws := s1.draws + bytes.length } = .next t ∧
      step s = .next (t.countImeDelay.engineCycles s.freeGate (t.cycles - s.cycles))) ∧
  (∀ (s : State) (hs : List HostAction), s.params.sched = .lockstep → s.turns = hs.map Turn.host →
    step s = State.referencePass (State.settle { hs.foldl (fun u h => u.hostAction h) s with turns := [] })) ∧
  ∀ s : State, s.params.sched = .free →
    (s.turns = [] → step s = s.settle.referencePass) ∧
    (∀ r : List Turn,
      (s.turns = .ppu :: r → step s = .next (State.ppuAction { s with turns := r })) ∧
      (s.turns = .timer :: r → step s = .next (State.timerAction { s with turns := r })) ∧
      (s.turns = .div :: r → step s = .next (State.divAction { s with turns := r })) ∧
      (∀ h : HostAction, s.turns = .host h :: r → step s = .next (State.hostAction h { s with turns := r })) ∧
      (s.turns = .cpu :: r → s.cpuCanStep = true → step s = s.iteration) ∧
      (s.turns = .cpu :: r → s.cpuCanStep = false → step s = .next { s with turns := r })) ∧
    (∀ ts r : List Turn, Turn.cpu ∉ ts →
      let u := ts.foldl (fun u t => u.perform t) s
      (s.turns = ts → s.yield = { u with turns := [] }) ∧
      (s.turns = ts ++ .cpu :: r → s.yield = { u with turns := r }))

/-- R402: while the CPU cannot take an iteration, a step of the reference schedule is one cycle of the Timer and of the
PPU, and the cycle counter stands still (R29, R331). -/
def Obligations.IdleCycle : Prop :=
  ∀ s : State, s.turns = [] → s.settle.cpuCanStep = false →
    ∃ t, step s = .next t ∧ t = (s.settle.timerCycle true).ppuCycle true ∧ t.cycles = s.cycles ∧ t.regs = s.regs

/-- R408, R411: at step 3 of its iteration a CPU that finds `step_mode` set parks before decode, after any interrupt
entry; once resumed it goes on with the decode, whatever `step_mode` then is. The PPU parks at a phase boundary, and
nowhere else; the Timer parks before a tick, and while it is blocked; a parked agent does nothing. With `step_mode`
clear the turn of an engine that is not parked is its next atomic action, and a turn of the `DIV` count is one cycle unit
of it whatever `step_mode` is, the Timer not being parked (R394, R400; log entries 6, 14). With all three agents parked
and no input from the host, a step changes nothing. Readings of the model: what a resumed CPU does, and that the engines
test `step_mode` in the cycles of an interrupt entry after which the CPU parks (log entry 12); the boundaries of VBlank
(log entry 30); that a blocked Timer parks (log entry 32); and that the start action of a resumed PPU comes ahead of the
resumed CPU's instruction (log entry 33). -/
def Obligations.DebugGate : Prop :=
  ∀ s : State,
    (s.cpuPos = .top → s.beforeDecode.others.stepMode = true →
      let t := { s.beforeDecode.others with cpuParked := true, cpuPos := .decode }
      s.iteration = .next t ∧
      (s.cpuCanStep = true → s.referencePass = .next (t.engineCycles true (t.cycles - s.cycles)))) ∧
    (s.cpuPos = .decode → s.iteration = { s with cpuPos := .top }.decodeAndExecute) ∧
    (s.ppu.parked = false → s.stepMode = true →
      (s.ppu.pos ∈ [.oamSearch .start, .pixelTransfer .start, .hBlank .start, .vBlank .start, .vBlank .lineStart] →
        s.ppuAction = { s with ppu := { s.ppu with parked := true } } ∧
        s.ppuCycle true = { s with ppu := { s.ppu with parked := true } }) ∧
      (s.ppu.pos ∉ [.oamSearch .start, .pixelTransfer .start, .hBlank .start, .vBlank .start, .vBlank .lineStart] →
        s.ppuAction = s.ppuMove) ∧
      (s.ppu.pos.isHold = true →
        (s.ppu.dot + 1 ≠ s.ppuBudget → s.ppuCycle true = { s with ppu := { s.ppu with dot := s.ppu.dot + 1 } }) ∧
        (s.ppu.dot + 1 = s.ppuBudget →
          let u := s.ppuMove.ppuToBoundary ppuFuel
          s.ppuCycle true = { u with ppu := { u.ppu with parked := true } }))) ∧
    (s.timer.parked = false → s.stepMode = true →
      ((s.timer.pos = .blocked ∨ s.timer.pos = .counting) →
        s.timerAction = { s with timer := { s.timer with parked := true } } ∧
        s.timerCycle true = { s with timer := { s.timer with parked := true } }) ∧
      (s.timer.pos ≠ .blocked → s.timer.pos ≠ .counting → s.timerAction = s.timerMove)) ∧
    (s.ppu.parked = false → s.stepMode = false → s.ppuAction = s.ppuMove) ∧
    (s.timer.parked = false → s.stepMode = false → s.timerAction = s.timerMove) ∧
    (s.timer.parked = false → s.divAction = s.divCycle) ∧
    (s.ppu.parked = true → s.ppuAction = s ∧ s.ppuCycle true = s ∧ s.ppuCycle false = s) ∧
    (s.timer.parked = true →
      s.timerAction = s ∧ s.divAction = s ∧ s.timerCycle true = s ∧ s.timerCycle false = s) ∧
    (s.hostPos = .idle → (s.hostAction .pause).stepMode = true ∧
      s.hostAction .resume = { s with
        stepMode := false,
        cpuParked := false,
        ppu := { s.ppu with parked := false },
        timer := { s.timer with parked := false } }) ∧
    (s.hostPos = .idle → s.params.sched = .lockstep → s.cpuPos = .decode → s.cpuParked = false →
      s.ppu.parked = false → s.settle = s.ppuToHold false ppuFuel) ∧
    (s.cpuParked = true → s.timer.parked = true → s.ppu.parked = true → s.turns = [] → s.hostPos = .idle →
      step s = .next s)

/-! ## Launch and invariant -/

/-- R421: the launch values the rule states. -/
def Obligations.LaunchValues : Prop :=
  State.reset.regs = ⟨0x01, 0xB0, 0x00, 0x13, 0x00, 0xD8, 0x01, 0x4D, 0xFFFE, 0x0100⟩ ∧
  State.reset.ime = false ∧ State.reset.imeDelay = 0 ∧ State.reset.halted = false ∧ State.reset.cpuFault = none ∧
  State.reset.cycles = 0 ∧ State.reset.stepMode = false ∧ State.reset.cpuParked = false ∧
  State.reset.ppu.parked = false ∧ State.reset.timer.parked = false ∧ State.reset.irqLatch = false ∧
  State.reset.timerEnableLatch = false ∧ State.reset.timer.div = 0 ∧ State.reset.io.ifr = 0b00001 ∧
  State.reset.io.ie = 0 ∧ State.reset.io.p1Sel = 0 ∧ State.reset.io.tima = 0 ∧ State.reset.io.tma = 0 ∧
  State.reset.io.tac = 0 ∧ State.reset.io.lcdc = 0x91 ∧ State.reset.io.stat = 0b0000101 ∧ State.reset.io.scy = 0 ∧
  State.reset.io.scx = 0 ∧ State.reset.io.ly = 0 ∧ State.reset.io.lyc = 0 ∧ State.reset.io.bgp = 0xFC ∧
  State.reset.io.wy = 0 ∧ State.reset.io.wx = 0 ∧ State.reset.ppu.pos = .oamSearch .start ∧
  State.reset.ppu.vblankLine = 0 ∧ State.reset.ppu.windowLine = 0 ∧ State.reset.ppu.lineObjects = [] ∧
  State.reset.ppu.dot = 0 ∧ State.reset.timer.pos = .blocked

/-- R424, U24: a launch record that breaks an invariant of the state is refused: a non-zero low nibble of `F`, a running
countdown, a fault, a line above 153, a mode that does not fit the line, or a memory that is not in canonical form (the
last is the model's own). Any other is launched into a state that has the invariant and holds what the record gives,
with the latch set only for a machine halted with a request pending. The record of a snapshot has its `AF` masked. Which
records are refused and where the PPU starts is log entry 20. -/
def Obligations.Launch : Prop :=
  (∀ r : LaunchRecord,
    let broken := 153 < r.io.ly.toNat ∨ (144 ≤ r.io.ly.toNat ∧ r.io.mode ≠ 1) ∨
      (1 ≤ r.io.ly.toNat ∧ r.io.ly.toNat ≤ 143 ∧ r.io.mode = 1) ∨ r.regs.f.toNat % 16 ≠ 0 ∨ r.imeDelay ≠ 0 ∨
      r.cpuFault ≠ none ∨ Memory.wf r.mem = false
    (broken → launch r = .refused .launchRecord) ∧
    (¬ broken → ∃ s, launch r = .next s ∧ Inv s ∧ s.regs = r.regs ∧ s.ime = r.ime ∧ s.halted = r.halted ∧
      s.io = r.io ∧ s.mem = r.mem ∧ s.joypad = r.joypad ∧ s.params = r.params ∧ s.imeDelay = 0 ∧ s.cpuFault = none ∧
      (s.irqLatch = true ↔ r.halted = true ∧ r.io.ifr ≠ 0) ∧
      (s.timer.pos = .counting ↔ r.io.timerEnable = true) ∧ s.timer.div = 0 ∧ s.ppu.windowLine = 0 ∧ s.ppu.dot = 0 ∧
      (s.ppu.pos.phase = .vBlank ↔ 144 ≤ r.io.ly.toNat))) ∧
  ∀ q : Snapshot,
    let r := q.record
    r.regs.r16 .af = q.af &&& 0xFFF0 ∧ r.regs.r16 .bc = q.bc ∧ r.regs.r16 .de = q.de ∧ r.regs.r16 .hl = q.hl ∧
      r.regs.sp = q.sp ∧ r.regs.pc = q.pc ∧ r.regs.f.toNat % 16 = 0 ∧ r.ime = q.ime ∧ r.halted = q.halted ∧
      r.imeDelay = 0 ∧ r.cpuFault = none ∧ r.io = q.io ∧ r.mem = q.mem

/-- The invariant holds at launch. -/
def Obligations.InvAtReset : Prop := Inv State.reset

/-- Every step keeps the invariant, from every state that has it: the canonical form of the memory, the low nibble of
`F` (R24), the range of `ime_delay` (R28), the range of `LY` and the agreement of `LY`, `STAT.MODE` and the PPU's phase
(R42, R340, R344, R363 to R366), the limits of `timer_div`, `line_objects` and the picture (R343, R348, R392). Two
clauses are the model's choices: `window_line` reaches 144, one above the range of R341, because R358 adds 1 after line
143 too (log entry 13), and a parked CPU stands before its decode (R408, log entry 12). -/
def Obligations.StepKeepsInv : Prop := ∀ s t : State, Inv s → step s = .next t → Inv t
end

