-- ==== Sys2Proof/Laws/State.lean ====
section
/-! SUPPORT. One lemma per field per update of the state, each true by `rfl`, so that no proof unfolds a record update. -/

namespace Sys2Proof.Machine

@[simp] theorem State.setR8_regs (s : State) (r : Reg8) (v : Byte) : (s.setR8 r v).regs = s.regs.setR8 r v := rfl
@[simp] theorem State.setR8_ime (s : State) (r : Reg8) (v : Byte) : (s.setR8 r v).ime = s.ime := rfl
@[simp] theorem State.setR8_imeDelay (s : State) (r : Reg8) (v : Byte) : (s.setR8 r v).imeDelay = s.imeDelay := rfl
@[simp] theorem State.setR8_halted (s : State) (r : Reg8) (v : Byte) : (s.setR8 r v).halted = s.halted := rfl
@[simp] theorem State.setR8_cpuFault (s : State) (r : Reg8) (v : Byte) : (s.setR8 r v).cpuFault = s.cpuFault := rfl
@[simp] theorem State.setR8_cpuParked (s : State) (r : Reg8) (v : Byte) : (s.setR8 r v).cpuParked = s.cpuParked := rfl
@[simp] theorem State.setR8_cpuPos (s : State) (r : Reg8) (v : Byte) : (s.setR8 r v).cpuPos = s.cpuPos := rfl
@[simp] theorem State.setR8_cycles (s : State) (r : Reg8) (v : Byte) : (s.setR8 r v).cycles = s.cycles := rfl
@[simp] theorem State.setR8_mem (s : State) (r : Reg8) (v : Byte) : (s.setR8 r v).mem = s.mem := rfl
@[simp] theorem State.setR8_io (s : State) (r : Reg8) (v : Byte) : (s.setR8 r v).io = s.io := rfl
@[simp] theorem State.setR8_irqLatch (s : State) (r : Reg8) (v : Byte) : (s.setR8 r v).irqLatch = s.irqLatch := rfl
@[simp] theorem State.setR8_timerEnableLatch (s : State) (r : Reg8) (v : Byte) : (s.setR8 r v).timerEnableLatch = s.timerEnableLatch := rfl
@[simp] theorem State.setR8_timer (s : State) (r : Reg8) (v : Byte) : (s.setR8 r v).timer = s.timer := rfl
@[simp] theorem State.setR8_ppu (s : State) (r : Reg8) (v : Byte) : (s.setR8 r v).ppu = s.ppu := rfl
@[simp] theorem State.setR8_framebuffer (s : State) (r : Reg8) (v : Byte) : (s.setR8 r v).framebuffer = s.framebuffer := rfl
@[simp] theorem State.setR8_stepMode (s : State) (r : Reg8) (v : Byte) : (s.setR8 r v).stepMode = s.stepMode := rfl
@[simp] theorem State.setR8_joypad (s : State) (r : Reg8) (v : Byte) : (s.setR8 r v).joypad = s.joypad := rfl
@[simp] theorem State.setR8_hostPos (s : State) (r : Reg8) (v : Byte) : (s.setR8 r v).hostPos = s.hostPos := rfl
@[simp] theorem State.setR8_cartLog (s : State) (r : Reg8) (v : Byte) : (s.setR8 r v).cartLog = s.cartLog := rfl
@[simp] theorem State.setR8_turns (s : State) (r : Reg8) (v : Byte) : (s.setR8 r v).turns = s.turns := rfl
@[simp] theorem State.setR8_draws (s : State) (r : Reg8) (v : Byte) : (s.setR8 r v).draws = s.draws := rfl
@[simp] theorem State.setR8_params (s : State) (r : Reg8) (v : Byte) : (s.setR8 r v).params = s.params := rfl

@[simp] theorem State.setR16_regs (s : State) (rr : Reg16) (v : Word) : (s.setR16 rr v).regs = s.regs.setR16 rr v := rfl
@[simp] theorem State.setR16_ime (s : State) (rr : Reg16) (v : Word) : (s.setR16 rr v).ime = s.ime := rfl
@[simp] theorem State.setR16_imeDelay (s : State) (rr : Reg16) (v : Word) : (s.setR16 rr v).imeDelay = s.imeDelay := rfl
@[simp] theorem State.setR16_halted (s : State) (rr : Reg16) (v : Word) : (s.setR16 rr v).halted = s.halted := rfl
@[simp] theorem State.setR16_cpuFault (s : State) (rr : Reg16) (v : Word) : (s.setR16 rr v).cpuFault = s.cpuFault := rfl
@[simp] theorem State.setR16_cpuParked (s : State) (rr : Reg16) (v : Word) : (s.setR16 rr v).cpuParked = s.cpuParked := rfl
@[simp] theorem State.setR16_cpuPos (s : State) (rr : Reg16) (v : Word) : (s.setR16 rr v).cpuPos = s.cpuPos := rfl
@[simp] theorem State.setR16_cycles (s : State) (rr : Reg16) (v : Word) : (s.setR16 rr v).cycles = s.cycles := rfl
@[simp] theorem State.setR16_mem (s : State) (rr : Reg16) (v : Word) : (s.setR16 rr v).mem = s.mem := rfl
@[simp] theorem State.setR16_io (s : State) (rr : Reg16) (v : Word) : (s.setR16 rr v).io = s.io := rfl
@[simp] theorem State.setR16_irqLatch (s : State) (rr : Reg16) (v : Word) : (s.setR16 rr v).irqLatch = s.irqLatch := rfl
@[simp] theorem State.setR16_timerEnableLatch (s : State) (rr : Reg16) (v : Word) : (s.setR16 rr v).timerEnableLatch = s.timerEnableLatch := rfl
@[simp] theorem State.setR16_timer (s : State) (rr : Reg16) (v : Word) : (s.setR16 rr v).timer = s.timer := rfl
@[simp] theorem State.setR16_ppu (s : State) (rr : Reg16) (v : Word) : (s.setR16 rr v).ppu = s.ppu := rfl
@[simp] theorem State.setR16_framebuffer (s : State) (rr : Reg16) (v : Word) : (s.setR16 rr v).framebuffer = s.framebuffer := rfl
@[simp] theorem State.setR16_stepMode (s : State) (rr : Reg16) (v : Word) : (s.setR16 rr v).stepMode = s.stepMode := rfl
@[simp] theorem State.setR16_joypad (s : State) (rr : Reg16) (v : Word) : (s.setR16 rr v).joypad = s.joypad := rfl
@[simp] theorem State.setR16_hostPos (s : State) (rr : Reg16) (v : Word) : (s.setR16 rr v).hostPos = s.hostPos := rfl
@[simp] theorem State.setR16_cartLog (s : State) (rr : Reg16) (v : Word) : (s.setR16 rr v).cartLog = s.cartLog := rfl
@[simp] theorem State.setR16_turns (s : State) (rr : Reg16) (v : Word) : (s.setR16 rr v).turns = s.turns := rfl
@[simp] theorem State.setR16_draws (s : State) (rr : Reg16) (v : Word) : (s.setR16 rr v).draws = s.draws := rfl
@[simp] theorem State.setR16_params (s : State) (rr : Reg16) (v : Word) : (s.setR16 rr v).params = s.params := rfl

@[simp] theorem State.setF_regs (s : State) (v : Byte) : (s.setF v).regs = { s.regs with f := maskF v } := rfl
@[simp] theorem State.setF_ime (s : State) (v : Byte) : (s.setF v).ime = s.ime := rfl
@[simp] theorem State.setF_imeDelay (s : State) (v : Byte) : (s.setF v).imeDelay = s.imeDelay := rfl
@[simp] theorem State.setF_halted (s : State) (v : Byte) : (s.setF v).halted = s.halted := rfl
@[simp] theorem State.setF_cpuFault (s : State) (v : Byte) : (s.setF v).cpuFault = s.cpuFault := rfl
@[simp] theorem State.setF_cpuParked (s : State) (v : Byte) : (s.setF v).cpuParked = s.cpuParked := rfl
@[simp] theorem State.setF_cpuPos (s : State) (v : Byte) : (s.setF v).cpuPos = s.cpuPos := rfl
@[simp] theorem State.setF_cycles (s : State) (v : Byte) : (s.setF v).cycles = s.cycles := rfl
@[simp] theorem State.setF_mem (s : State) (v : Byte) : (s.setF v).mem = s.mem := rfl
@[simp] theorem State.setF_io (s : State) (v : Byte) : (s.setF v).io = s.io := rfl
@[simp] theorem State.setF_irqLatch (s : State) (v : Byte) : (s.setF v).irqLatch = s.irqLatch := rfl
@[simp] theorem State.setF_timerEnableLatch (s : State) (v : Byte) : (s.setF v).timerEnableLatch = s.timerEnableLatch := rfl
@[simp] theorem State.setF_timer (s : State) (v : Byte) : (s.setF v).timer = s.timer := rfl
@[simp] theorem State.setF_ppu (s : State) (v : Byte) : (s.setF v).ppu = s.ppu := rfl
@[simp] theorem State.setF_framebuffer (s : State) (v : Byte) : (s.setF v).framebuffer = s.framebuffer := rfl
@[simp] theorem State.setF_stepMode (s : State) (v : Byte) : (s.setF v).stepMode = s.stepMode := rfl
@[simp] theorem State.setF_joypad (s : State) (v : Byte) : (s.setF v).joypad = s.joypad := rfl
@[simp] theorem State.setF_hostPos (s : State) (v : Byte) : (s.setF v).hostPos = s.hostPos := rfl
@[simp] theorem State.setF_cartLog (s : State) (v : Byte) : (s.setF v).cartLog = s.cartLog := rfl
@[simp] theorem State.setF_turns (s : State) (v : Byte) : (s.setF v).turns = s.turns := rfl
@[simp] theorem State.setF_draws (s : State) (v : Byte) : (s.setF v).draws = s.draws := rfl
@[simp] theorem State.setF_params (s : State) (v : Byte) : (s.setF v).params = s.params := rfl

@[simp] theorem State.setSp_regs (s : State) (v : Word) : (s.setSp v).regs = { s.regs with sp := v } := rfl
@[simp] theorem State.setSp_ime (s : State) (v : Word) : (s.setSp v).ime = s.ime := rfl
@[simp] theorem State.setSp_imeDelay (s : State) (v : Word) : (s.setSp v).imeDelay = s.imeDelay := rfl
@[simp] theorem State.setSp_halted (s : State) (v : Word) : (s.setSp v).halted = s.halted := rfl
@[simp] theorem State.setSp_cpuFault (s : State) (v : Word) : (s.setSp v).cpuFault = s.cpuFault := rfl
@[simp] theorem State.setSp_cpuParked (s : State) (v : Word) : (s.setSp v).cpuParked = s.cpuParked := rfl
@[simp] theorem State.setSp_cpuPos (s : State) (v : Word) : (s.setSp v).cpuPos = s.cpuPos := rfl
@[simp] theorem State.setSp_cycles (s : State) (v : Word) : (s.setSp v).cycles = s.cycles := rfl
@[simp] theorem State.setSp_mem (s : State) (v : Word) : (s.setSp v).mem = s.mem := rfl
@[simp] theorem State.setSp_io (s : State) (v : Word) : (s.setSp v).io = s.io := rfl
@[simp] theorem State.setSp_irqLatch (s : State) (v : Word) : (s.setSp v).irqLatch = s.irqLatch := rfl
@[simp] theorem State.setSp_timerEnableLatch (s : State) (v : Word) : (s.setSp v).timerEnableLatch = s.timerEnableLatch := rfl
@[simp] theorem State.setSp_timer (s : State) (v : Word) : (s.setSp v).timer = s.timer := rfl
@[simp] theorem State.setSp_ppu (s : State) (v : Word) : (s.setSp v).ppu = s.ppu := rfl
@[simp] theorem State.setSp_framebuffer (s : State) (v : Word) : (s.setSp v).framebuffer = s.framebuffer := rfl
@[simp] theorem State.setSp_stepMode (s : State) (v : Word) : (s.setSp v).stepMode = s.stepMode := rfl
@[simp] theorem State.setSp_joypad (s : State) (v : Word) : (s.setSp v).joypad = s.joypad := rfl
@[simp] theorem State.setSp_hostPos (s : State) (v : Word) : (s.setSp v).hostPos = s.hostPos := rfl
@[simp] theorem State.setSp_cartLog (s : State) (v : Word) : (s.setSp v).cartLog = s.cartLog := rfl
@[simp] theorem State.setSp_turns (s : State) (v : Word) : (s.setSp v).turns = s.turns := rfl
@[simp] theorem State.setSp_draws (s : State) (v : Word) : (s.setSp v).draws = s.draws := rfl
@[simp] theorem State.setSp_params (s : State) (v : Word) : (s.setSp v).params = s.params := rfl

@[simp] theorem State.setPc_regs (s : State) (v : Word) : (s.setPc v).regs = { s.regs with pc := v } := rfl
@[simp] theorem State.setPc_ime (s : State) (v : Word) : (s.setPc v).ime = s.ime := rfl
@[simp] theorem State.setPc_imeDelay (s : State) (v : Word) : (s.setPc v).imeDelay = s.imeDelay := rfl
@[simp] theorem State.setPc_halted (s : State) (v : Word) : (s.setPc v).halted = s.halted := rfl
@[simp] theorem State.setPc_cpuFault (s : State) (v : Word) : (s.setPc v).cpuFault = s.cpuFault := rfl
@[simp] theorem State.setPc_cpuParked (s : State) (v : Word) : (s.setPc v).cpuParked = s.cpuParked := rfl
@[simp] theorem State.setPc_cpuPos (s : State) (v : Word) : (s.setPc v).cpuPos = s.cpuPos := rfl
@[simp] theorem State.setPc_cycles (s : State) (v : Word) : (s.setPc v).cycles = s.cycles := rfl
@[simp] theorem State.setPc_mem (s : State) (v : Word) : (s.setPc v).mem = s.mem := rfl
@[simp] theorem State.setPc_io (s : State) (v : Word) : (s.setPc v).io = s.io := rfl
@[simp] theorem State.setPc_irqLatch (s : State) (v : Word) : (s.setPc v).irqLatch = s.irqLatch := rfl
@[simp] theorem State.setPc_timerEnableLatch (s : State) (v : Word) : (s.setPc v).timerEnableLatch = s.timerEnableLatch := rfl
@[simp] theorem State.setPc_timer (s : State) (v : Word) : (s.setPc v).timer = s.timer := rfl
@[simp] theorem State.setPc_ppu (s : State) (v : Word) : (s.setPc v).ppu = s.ppu := rfl
@[simp] theorem State.setPc_framebuffer (s : State) (v : Word) : (s.setPc v).framebuffer = s.framebuffer := rfl
@[simp] theorem State.setPc_stepMode (s : State) (v : Word) : (s.setPc v).stepMode = s.stepMode := rfl
@[simp] theorem State.setPc_joypad (s : State) (v : Word) : (s.setPc v).joypad = s.joypad := rfl
@[simp] theorem State.setPc_hostPos (s : State) (v : Word) : (s.setPc v).hostPos = s.hostPos := rfl
@[simp] theorem State.setPc_cartLog (s : State) (v : Word) : (s.setPc v).cartLog = s.cartLog := rfl
@[simp] theorem State.setPc_turns (s : State) (v : Word) : (s.setPc v).turns = s.turns := rfl
@[simp] theorem State.setPc_draws (s : State) (v : Word) : (s.setPc v).draws = s.draws := rfl
@[simp] theorem State.setPc_params (s : State) (v : Word) : (s.setPc v).params = s.params := rfl

@[simp] theorem State.addCycles_regs (s : State) (n : Nat) : (s.addCycles n).regs = s.regs := rfl
@[simp] theorem State.addCycles_ime (s : State) (n : Nat) : (s.addCycles n).ime = s.ime := rfl
@[simp] theorem State.addCycles_imeDelay (s : State) (n : Nat) : (s.addCycles n).imeDelay = s.imeDelay := rfl
@[simp] theorem State.addCycles_halted (s : State) (n : Nat) : (s.addCycles n).halted = s.halted := rfl
@[simp] theorem State.addCycles_cpuFault (s : State) (n : Nat) : (s.addCycles n).cpuFault = s.cpuFault := rfl
@[simp] theorem State.addCycles_cpuParked (s : State) (n : Nat) : (s.addCycles n).cpuParked = s.cpuParked := rfl
@[simp] theorem State.addCycles_cpuPos (s : State) (n : Nat) : (s.addCycles n).cpuPos = s.cpuPos := rfl
@[simp] theorem State.addCycles_cycles (s : State) (n : Nat) : (s.addCycles n).cycles = s.cycles + n := rfl
@[simp] theorem State.addCycles_mem (s : State) (n : Nat) : (s.addCycles n).mem = s.mem := rfl
@[simp] theorem State.addCycles_io (s : State) (n : Nat) : (s.addCycles n).io = s.io := rfl
@[simp] theorem State.addCycles_irqLatch (s : State) (n : Nat) : (s.addCycles n).irqLatch = s.irqLatch := rfl
@[simp] theorem State.addCycles_timerEnableLatch (s : State) (n : Nat) : (s.addCycles n).timerEnableLatch = s.timerEnableLatch := rfl
@[simp] theorem State.addCycles_timer (s : State) (n : Nat) : (s.addCycles n).timer = s.timer := rfl
@[simp] theorem State.addCycles_ppu (s : State) (n : Nat) : (s.addCycles n).ppu = s.ppu := rfl
@[simp] theorem State.addCycles_framebuffer (s : State) (n : Nat) : (s.addCycles n).framebuffer = s.framebuffer := rfl
@[simp] theorem State.addCycles_stepMode (s : State) (n : Nat) : (s.addCycles n).stepMode = s.stepMode := rfl
@[simp] theorem State.addCycles_joypad (s : State) (n : Nat) : (s.addCycles n).joypad = s.joypad := rfl
@[simp] theorem State.addCycles_hostPos (s : State) (n : Nat) : (s.addCycles n).hostPos = s.hostPos := rfl
@[simp] theorem State.addCycles_cartLog (s : State) (n : Nat) : (s.addCycles n).cartLog = s.cartLog := rfl
@[simp] theorem State.addCycles_turns (s : State) (n : Nat) : (s.addCycles n).turns = s.turns := rfl
@[simp] theorem State.addCycles_draws (s : State) (n : Nat) : (s.addCycles n).draws = s.draws := rfl
@[simp] theorem State.addCycles_params (s : State) (n : Nat) : (s.addCycles n).params = s.params := rfl

@[simp] theorem State.setCell_regs (s : State) (k : Nat) (v : Byte) : (s.setCell k v).regs = s.regs := rfl
@[simp] theorem State.setCell_ime (s : State) (k : Nat) (v : Byte) : (s.setCell k v).ime = s.ime := rfl
@[simp] theorem State.setCell_imeDelay (s : State) (k : Nat) (v : Byte) : (s.setCell k v).imeDelay = s.imeDelay := rfl
@[simp] theorem State.setCell_halted (s : State) (k : Nat) (v : Byte) : (s.setCell k v).halted = s.halted := rfl
@[simp] theorem State.setCell_cpuFault (s : State) (k : Nat) (v : Byte) : (s.setCell k v).cpuFault = s.cpuFault := rfl
@[simp] theorem State.setCell_cpuParked (s : State) (k : Nat) (v : Byte) : (s.setCell k v).cpuParked = s.cpuParked := rfl
@[simp] theorem State.setCell_cpuPos (s : State) (k : Nat) (v : Byte) : (s.setCell k v).cpuPos = s.cpuPos := rfl
@[simp] theorem State.setCell_cycles (s : State) (k : Nat) (v : Byte) : (s.setCell k v).cycles = s.cycles := rfl
@[simp] theorem State.setCell_mem (s : State) (k : Nat) (v : Byte) : (s.setCell k v).mem = listSet k v s.mem := rfl
@[simp] theorem State.setCell_io (s : State) (k : Nat) (v : Byte) : (s.setCell k v).io = s.io := rfl
@[simp] theorem State.setCell_irqLatch (s : State) (k : Nat) (v : Byte) : (s.setCell k v).irqLatch = s.irqLatch := rfl
@[simp] theorem State.setCell_timerEnableLatch (s : State) (k : Nat) (v : Byte) : (s.setCell k v).timerEnableLatch = s.timerEnableLatch := rfl
@[simp] theorem State.setCell_timer (s : State) (k : Nat) (v : Byte) : (s.setCell k v).timer = s.timer := rfl
@[simp] theorem State.setCell_ppu (s : State) (k : Nat) (v : Byte) : (s.setCell k v).ppu = s.ppu := rfl
@[simp] theorem State.setCell_framebuffer (s : State) (k : Nat) (v : Byte) : (s.setCell k v).framebuffer = s.framebuffer := rfl
@[simp] theorem State.setCell_stepMode (s : State) (k : Nat) (v : Byte) : (s.setCell k v).stepMode = s.stepMode := rfl
@[simp] theorem State.setCell_joypad (s : State) (k : Nat) (v : Byte) : (s.setCell k v).joypad = s.joypad := rfl
@[simp] theorem State.setCell_hostPos (s : State) (k : Nat) (v : Byte) : (s.setCell k v).hostPos = s.hostPos := rfl
@[simp] theorem State.setCell_cartLog (s : State) (k : Nat) (v : Byte) : (s.setCell k v).cartLog = s.cartLog := rfl
@[simp] theorem State.setCell_turns (s : State) (k : Nat) (v : Byte) : (s.setCell k v).turns = s.turns := rfl
@[simp] theorem State.setCell_draws (s : State) (k : Nat) (v : Byte) : (s.setCell k v).draws = s.draws := rfl
@[simp] theorem State.setCell_params (s : State) (k : Nat) (v : Byte) : (s.setCell k v).params = s.params := rfl

@[simp] theorem State.fireIrq_regs (s : State) : (s.fireIrq).regs = s.regs := rfl
@[simp] theorem State.fireIrq_ime (s : State) : (s.fireIrq).ime = s.ime := rfl
@[simp] theorem State.fireIrq_imeDelay (s : State) : (s.fireIrq).imeDelay = s.imeDelay := rfl
@[simp] theorem State.fireIrq_halted (s : State) : (s.fireIrq).halted = s.halted := rfl
@[simp] theorem State.fireIrq_cpuFault (s : State) : (s.fireIrq).cpuFault = s.cpuFault := rfl
@[simp] theorem State.fireIrq_cpuParked (s : State) : (s.fireIrq).cpuParked = s.cpuParked := rfl
@[simp] theorem State.fireIrq_cpuPos (s : State) : (s.fireIrq).cpuPos = s.cpuPos := rfl
@[simp] theorem State.fireIrq_cycles (s : State) : (s.fireIrq).cycles = s.cycles := rfl
@[simp] theorem State.fireIrq_mem (s : State) : (s.fireIrq).mem = s.mem := rfl
@[simp] theorem State.fireIrq_io (s : State) : (s.fireIrq).io = s.io := rfl
@[simp] theorem State.fireIrq_irqLatch (s : State) : (s.fireIrq).irqLatch = true := rfl
@[simp] theorem State.fireIrq_timerEnableLatch (s : State) : (s.fireIrq).timerEnableLatch = s.timerEnableLatch := rfl
@[simp] theorem State.fireIrq_timer (s : State) : (s.fireIrq).timer = s.timer := rfl
@[simp] theorem State.fireIrq_ppu (s : State) : (s.fireIrq).ppu = s.ppu := rfl
@[simp] theorem State.fireIrq_framebuffer (s : State) : (s.fireIrq).framebuffer = s.framebuffer := rfl
@[simp] theorem State.fireIrq_stepMode (s : State) : (s.fireIrq).stepMode = s.stepMode := rfl
@[simp] theorem State.fireIrq_joypad (s : State) : (s.fireIrq).joypad = s.joypad := rfl
@[simp] theorem State.fireIrq_hostPos (s : State) : (s.fireIrq).hostPos = s.hostPos := rfl
@[simp] theorem State.fireIrq_cartLog (s : State) : (s.fireIrq).cartLog = s.cartLog := rfl
@[simp] theorem State.fireIrq_turns (s : State) : (s.fireIrq).turns = s.turns := rfl
@[simp] theorem State.fireIrq_draws (s : State) : (s.fireIrq).draws = s.draws := rfl
@[simp] theorem State.fireIrq_params (s : State) : (s.fireIrq).params = s.params := rfl

@[simp] theorem State.raiseFault_regs (s : State) (e : CpuFault) : (s.raiseFault e).regs = s.regs := rfl
@[simp] theorem State.raiseFault_ime (s : State) (e : CpuFault) : (s.raiseFault e).ime = s.ime := rfl
@[simp] theorem State.raiseFault_imeDelay (s : State) (e : CpuFault) : (s.raiseFault e).imeDelay = s.imeDelay := rfl
@[simp] theorem State.raiseFault_halted (s : State) (e : CpuFault) : (s.raiseFault e).halted = s.halted := rfl
@[simp] theorem State.raiseFault_cpuFault (s : State) (e : CpuFault) : (s.raiseFault e).cpuFault = some e := rfl
@[simp] theorem State.raiseFault_cpuParked (s : State) (e : CpuFault) : (s.raiseFault e).cpuParked = s.cpuParked := rfl
@[simp] theorem State.raiseFault_cpuPos (s : State) (e : CpuFault) : (s.raiseFault e).cpuPos = s.cpuPos := rfl
@[simp] theorem State.raiseFault_cycles (s : State) (e : CpuFault) : (s.raiseFault e).cycles = s.cycles := rfl
@[simp] theorem State.raiseFault_mem (s : State) (e : CpuFault) : (s.raiseFault e).mem = s.mem := rfl
@[simp] theorem State.raiseFault_io (s : State) (e : CpuFault) : (s.raiseFault e).io = s.io := rfl
@[simp] theorem State.raiseFault_irqLatch (s : State) (e : CpuFault) : (s.raiseFault e).irqLatch = s.irqLatch := rfl
@[simp] theorem State.raiseFault_timerEnableLatch (s : State) (e : CpuFault) : (s.raiseFault e).timerEnableLatch = s.timerEnableLatch := rfl
@[simp] theorem State.raiseFault_timer (s : State) (e : CpuFault) : (s.raiseFault e).timer = s.timer := rfl
@[simp] theorem State.raiseFault_ppu (s : State) (e : CpuFault) : (s.raiseFault e).ppu = s.ppu := rfl
@[simp] theorem State.raiseFault_framebuffer (s : State) (e : CpuFault) : (s.raiseFault e).framebuffer = s.framebuffer := rfl
@[simp] theorem State.raiseFault_stepMode (s : State) (e : CpuFault) : (s.raiseFault e).stepMode = s.stepMode := rfl
@[simp] theorem State.raiseFault_joypad (s : State) (e : CpuFault) : (s.raiseFault e).joypad = s.joypad := rfl
@[simp] theorem State.raiseFault_hostPos (s : State) (e : CpuFault) : (s.raiseFault e).hostPos = s.hostPos := rfl
@[simp] theorem State.raiseFault_cartLog (s : State) (e : CpuFault) : (s.raiseFault e).cartLog = s.cartLog := rfl
@[simp] theorem State.raiseFault_turns (s : State) (e : CpuFault) : (s.raiseFault e).turns = s.turns := rfl
@[simp] theorem State.raiseFault_draws (s : State) (e : CpuFault) : (s.raiseFault e).draws = s.draws := rfl
@[simp] theorem State.raiseFault_params (s : State) (e : CpuFault) : (s.raiseFault e).params = s.params := rfl

@[simp] theorem State.ppuGo_regs (s : State) (p : PpuPos) : (s.ppuGo p).regs = s.regs := rfl
@[simp] theorem State.ppuGo_ime (s : State) (p : PpuPos) : (s.ppuGo p).ime = s.ime := rfl
@[simp] theorem State.ppuGo_imeDelay (s : State) (p : PpuPos) : (s.ppuGo p).imeDelay = s.imeDelay := rfl
@[simp] theorem State.ppuGo_halted (s : State) (p : PpuPos) : (s.ppuGo p).halted = s.halted := rfl
@[simp] theorem State.ppuGo_cpuFault (s : State) (p : PpuPos) : (s.ppuGo p).cpuFault = s.cpuFault := rfl
@[simp] theorem State.ppuGo_cpuParked (s : State) (p : PpuPos) : (s.ppuGo p).cpuParked = s.cpuParked := rfl
@[simp] theorem State.ppuGo_cpuPos (s : State) (p : PpuPos) : (s.ppuGo p).cpuPos = s.cpuPos := rfl
@[simp] theorem State.ppuGo_cycles (s : State) (p : PpuPos) : (s.ppuGo p).cycles = s.cycles := rfl
@[simp] theorem State.ppuGo_mem (s : State) (p : PpuPos) : (s.ppuGo p).mem = s.mem := rfl
@[simp] theorem State.ppuGo_io (s : State) (p : PpuPos) : (s.ppuGo p).io = s.io := rfl
@[simp] theorem State.ppuGo_irqLatch (s : State) (p : PpuPos) : (s.ppuGo p).irqLatch = s.irqLatch := rfl
@[simp] theorem State.ppuGo_timerEnableLatch (s : State) (p : PpuPos) : (s.ppuGo p).timerEnableLatch = s.timerEnableLatch := rfl
@[simp] theorem State.ppuGo_timer (s : State) (p : PpuPos) : (s.ppuGo p).timer = s.timer := rfl
@[simp] theorem State.ppuGo_ppu (s : State) (p : PpuPos) : (s.ppuGo p).ppu = { s.ppu with pos := p } := rfl
@[simp] theorem State.ppuGo_framebuffer (s : State) (p : PpuPos) : (s.ppuGo p).framebuffer = s.framebuffer := rfl
@[simp] theorem State.ppuGo_stepMode (s : State) (p : PpuPos) : (s.ppuGo p).stepMode = s.stepMode := rfl
@[simp] theorem State.ppuGo_joypad (s : State) (p : PpuPos) : (s.ppuGo p).joypad = s.joypad := rfl
@[simp] theorem State.ppuGo_hostPos (s : State) (p : PpuPos) : (s.ppuGo p).hostPos = s.hostPos := rfl
@[simp] theorem State.ppuGo_cartLog (s : State) (p : PpuPos) : (s.ppuGo p).cartLog = s.cartLog := rfl
@[simp] theorem State.ppuGo_turns (s : State) (p : PpuPos) : (s.ppuGo p).turns = s.turns := rfl
@[simp] theorem State.ppuGo_draws (s : State) (p : PpuPos) : (s.ppuGo p).draws = s.draws := rfl
@[simp] theorem State.ppuGo_params (s : State) (p : PpuPos) : (s.ppuGo p).params = s.params := rfl

@[simp] theorem State.ppuEndHold_regs (s : State) (p : PpuPos) : (s.ppuEndHold p).regs = s.regs := rfl
@[simp] theorem State.ppuEndHold_ime (s : State) (p : PpuPos) : (s.ppuEndHold p).ime = s.ime := rfl
@[simp] theorem State.ppuEndHold_imeDelay (s : State) (p : PpuPos) : (s.ppuEndHold p).imeDelay = s.imeDelay := rfl
@[simp] theorem State.ppuEndHold_halted (s : State) (p : PpuPos) : (s.ppuEndHold p).halted = s.halted := rfl
@[simp] theorem State.ppuEndHold_cpuFault (s : State) (p : PpuPos) : (s.ppuEndHold p).cpuFault = s.cpuFault := rfl
@[simp] theorem State.ppuEndHold_cpuParked (s : State) (p : PpuPos) : (s.ppuEndHold p).cpuParked = s.cpuParked := rfl
@[simp] theorem State.ppuEndHold_cpuPos (s : State) (p : PpuPos) : (s.ppuEndHold p).cpuPos = s.cpuPos := rfl
@[simp] theorem State.ppuEndHold_cycles (s : State) (p : PpuPos) : (s.ppuEndHold p).cycles = s.cycles := rfl
@[simp] theorem State.ppuEndHold_mem (s : State) (p : PpuPos) : (s.ppuEndHold p).mem = s.mem := rfl
@[simp] theorem State.ppuEndHold_io (s : State) (p : PpuPos) : (s.ppuEndHold p).io = s.io := rfl
@[simp] theorem State.ppuEndHold_irqLatch (s : State) (p : PpuPos) : (s.ppuEndHold p).irqLatch = s.irqLatch := rfl
@[simp] theorem State.ppuEndHold_timerEnableLatch (s : State) (p : PpuPos) : (s.ppuEndHold p).timerEnableLatch = s.timerEnableLatch := rfl
@[simp] theorem State.ppuEndHold_timer (s : State) (p : PpuPos) : (s.ppuEndHold p).timer = s.timer := rfl
@[simp] theorem State.ppuEndHold_ppu (s : State) (p : PpuPos) : (s.ppuEndHold p).ppu = { s.ppu with dot := 0, pos := p } := rfl
@[simp] theorem State.ppuEndHold_framebuffer (s : State) (p : PpuPos) : (s.ppuEndHold p).framebuffer = s.framebuffer := rfl
@[simp] theorem State.ppuEndHold_stepMode (s : State) (p : PpuPos) : (s.ppuEndHold p).stepMode = s.stepMode := rfl
@[simp] theorem State.ppuEndHold_joypad (s : State) (p : PpuPos) : (s.ppuEndHold p).joypad = s.joypad := rfl
@[simp] theorem State.ppuEndHold_hostPos (s : State) (p : PpuPos) : (s.ppuEndHold p).hostPos = s.hostPos := rfl
@[simp] theorem State.ppuEndHold_cartLog (s : State) (p : PpuPos) : (s.ppuEndHold p).cartLog = s.cartLog := rfl
@[simp] theorem State.ppuEndHold_turns (s : State) (p : PpuPos) : (s.ppuEndHold p).turns = s.turns := rfl
@[simp] theorem State.ppuEndHold_draws (s : State) (p : PpuPos) : (s.ppuEndHold p).draws = s.draws := rfl
@[simp] theorem State.ppuEndHold_params (s : State) (p : PpuPos) : (s.ppuEndHold p).params = s.params := rfl

@[simp] theorem State.parkPpu_regs (s : State) : (s.parkPpu).regs = s.regs := rfl
@[simp] theorem State.parkPpu_ime (s : State) : (s.parkPpu).ime = s.ime := rfl
@[simp] theorem State.parkPpu_imeDelay (s : State) : (s.parkPpu).imeDelay = s.imeDelay := rfl
@[simp] theorem State.parkPpu_halted (s : State) : (s.parkPpu).halted = s.halted := rfl
@[simp] theorem State.parkPpu_cpuFault (s : State) : (s.parkPpu).cpuFault = s.cpuFault := rfl
@[simp] theorem State.parkPpu_cpuParked (s : State) : (s.parkPpu).cpuParked = s.cpuParked := rfl
@[simp] theorem State.parkPpu_cpuPos (s : State) : (s.parkPpu).cpuPos = s.cpuPos := rfl
@[simp] theorem State.parkPpu_cycles (s : State) : (s.parkPpu).cycles = s.cycles := rfl
@[simp] theorem State.parkPpu_mem (s : State) : (s.parkPpu).mem = s.mem := rfl
@[simp] theorem State.parkPpu_io (s : State) : (s.parkPpu).io = s.io := rfl
@[simp] theorem State.parkPpu_irqLatch (s : State) : (s.parkPpu).irqLatch = s.irqLatch := rfl
@[simp] theorem State.parkPpu_timerEnableLatch (s : State) : (s.parkPpu).timerEnableLatch = s.timerEnableLatch := rfl
@[simp] theorem State.parkPpu_timer (s : State) : (s.parkPpu).timer = s.timer := rfl
@[simp] theorem State.parkPpu_ppu (s : State) : (s.parkPpu).ppu = { s.ppu with parked := true } := rfl
@[simp] theorem State.parkPpu_framebuffer (s : State) : (s.parkPpu).framebuffer = s.framebuffer := rfl
@[simp] theorem State.parkPpu_stepMode (s : State) : (s.parkPpu).stepMode = s.stepMode := rfl
@[simp] theorem State.parkPpu_joypad (s : State) : (s.parkPpu).joypad = s.joypad := rfl
@[simp] theorem State.parkPpu_hostPos (s : State) : (s.parkPpu).hostPos = s.hostPos := rfl
@[simp] theorem State.parkPpu_cartLog (s : State) : (s.parkPpu).cartLog = s.cartLog := rfl
@[simp] theorem State.parkPpu_turns (s : State) : (s.parkPpu).turns = s.turns := rfl
@[simp] theorem State.parkPpu_draws (s : State) : (s.parkPpu).draws = s.draws := rfl
@[simp] theorem State.parkPpu_params (s : State) : (s.parkPpu).params = s.params := rfl

@[simp] theorem State.timerGo_regs (s : State) (p : TimerPos) : (s.timerGo p).regs = s.regs := rfl
@[simp] theorem State.timerGo_ime (s : State) (p : TimerPos) : (s.timerGo p).ime = s.ime := rfl
@[simp] theorem State.timerGo_imeDelay (s : State) (p : TimerPos) : (s.timerGo p).imeDelay = s.imeDelay := rfl
@[simp] theorem State.timerGo_halted (s : State) (p : TimerPos) : (s.timerGo p).halted = s.halted := rfl
@[simp] theorem State.timerGo_cpuFault (s : State) (p : TimerPos) : (s.timerGo p).cpuFault = s.cpuFault := rfl
@[simp] theorem State.timerGo_cpuParked (s : State) (p : TimerPos) : (s.timerGo p).cpuParked = s.cpuParked := rfl
@[simp] theorem State.timerGo_cpuPos (s : State) (p : TimerPos) : (s.timerGo p).cpuPos = s.cpuPos := rfl
@[simp] theorem State.timerGo_cycles (s : State) (p : TimerPos) : (s.timerGo p).cycles = s.cycles := rfl
@[simp] theorem State.timerGo_mem (s : State) (p : TimerPos) : (s.timerGo p).mem = s.mem := rfl
@[simp] theorem State.timerGo_io (s : State) (p : TimerPos) : (s.timerGo p).io = s.io := rfl
@[simp] theorem State.timerGo_irqLatch (s : State) (p : TimerPos) : (s.timerGo p).irqLatch = s.irqLatch := rfl
@[simp] theorem State.timerGo_timerEnableLatch (s : State) (p : TimerPos) : (s.timerGo p).timerEnableLatch = s.timerEnableLatch := rfl
@[simp] theorem State.timerGo_timer (s : State) (p : TimerPos) : (s.timerGo p).timer = { s.timer with pos := p } := rfl
@[simp] theorem State.timerGo_ppu (s : State) (p : TimerPos) : (s.timerGo p).ppu = s.ppu := rfl
@[simp] theorem State.timerGo_framebuffer (s : State) (p : TimerPos) : (s.timerGo p).framebuffer = s.framebuffer := rfl
@[simp] theorem State.timerGo_stepMode (s : State) (p : TimerPos) : (s.timerGo p).stepMode = s.stepMode := rfl
@[simp] theorem State.timerGo_joypad (s : State) (p : TimerPos) : (s.timerGo p).joypad = s.joypad := rfl
@[simp] theorem State.timerGo_hostPos (s : State) (p : TimerPos) : (s.timerGo p).hostPos = s.hostPos := rfl
@[simp] theorem State.timerGo_cartLog (s : State) (p : TimerPos) : (s.timerGo p).cartLog = s.cartLog := rfl
@[simp] theorem State.timerGo_turns (s : State) (p : TimerPos) : (s.timerGo p).turns = s.turns := rfl
@[simp] theorem State.timerGo_draws (s : State) (p : TimerPos) : (s.timerGo p).draws = s.draws := rfl
@[simp] theorem State.timerGo_params (s : State) (p : TimerPos) : (s.timerGo p).params = s.params := rfl

@[simp] theorem State.parkTimer_regs (s : State) : (s.parkTimer).regs = s.regs := rfl
@[simp] theorem State.parkTimer_ime (s : State) : (s.parkTimer).ime = s.ime := rfl
@[simp] theorem State.parkTimer_imeDelay (s : State) : (s.parkTimer).imeDelay = s.imeDelay := rfl
@[simp] theorem State.parkTimer_halted (s : State) : (s.parkTimer).halted = s.halted := rfl
@[simp] theorem State.parkTimer_cpuFault (s : State) : (s.parkTimer).cpuFault = s.cpuFault := rfl
@[simp] theorem State.parkTimer_cpuParked (s : State) : (s.parkTimer).cpuParked = s.cpuParked := rfl
@[simp] theorem State.parkTimer_cpuPos (s : State) : (s.parkTimer).cpuPos = s.cpuPos := rfl
@[simp] theorem State.parkTimer_cycles (s : State) : (s.parkTimer).cycles = s.cycles := rfl
@[simp] theorem State.parkTimer_mem (s : State) : (s.parkTimer).mem = s.mem := rfl
@[simp] theorem State.parkTimer_io (s : State) : (s.parkTimer).io = s.io := rfl
@[simp] theorem State.parkTimer_irqLatch (s : State) : (s.parkTimer).irqLatch = s.irqLatch := rfl
@[simp] theorem State.parkTimer_timerEnableLatch (s : State) : (s.parkTimer).timerEnableLatch = s.timerEnableLatch := rfl
@[simp] theorem State.parkTimer_timer (s : State) : (s.parkTimer).timer = { s.timer with parked := true } := rfl
@[simp] theorem State.parkTimer_ppu (s : State) : (s.parkTimer).ppu = s.ppu := rfl
@[simp] theorem State.parkTimer_framebuffer (s : State) : (s.parkTimer).framebuffer = s.framebuffer := rfl
@[simp] theorem State.parkTimer_stepMode (s : State) : (s.parkTimer).stepMode = s.stepMode := rfl
@[simp] theorem State.parkTimer_joypad (s : State) : (s.parkTimer).joypad = s.joypad := rfl
@[simp] theorem State.parkTimer_hostPos (s : State) : (s.parkTimer).hostPos = s.hostPos := rfl
@[simp] theorem State.parkTimer_cartLog (s : State) : (s.parkTimer).cartLog = s.cartLog := rfl
@[simp] theorem State.parkTimer_turns (s : State) : (s.parkTimer).turns = s.turns := rfl
@[simp] theorem State.parkTimer_draws (s : State) : (s.parkTimer).draws = s.draws := rfl
@[simp] theorem State.parkTimer_params (s : State) : (s.parkTimer).params = s.params := rfl

/-! ## Fields of the registers -/

@[simp] theorem Regs.setR8_b_b (g : Regs) (v : Byte) : (g.setR8 .b v).b = v := rfl
@[simp] theorem Regs.setR8_b_c (g : Regs) (v : Byte) : (g.setR8 .b v).c = g.c := rfl
@[simp] theorem Regs.setR8_b_d (g : Regs) (v : Byte) : (g.setR8 .b v).d = g.d := rfl
@[simp] theorem Regs.setR8_b_e (g : Regs) (v : Byte) : (g.setR8 .b v).e = g.e := rfl
@[simp] theorem Regs.setR8_b_h (g : Regs) (v : Byte) : (g.setR8 .b v).h = g.h := rfl
@[simp] theorem Regs.setR8_b_l (g : Regs) (v : Byte) : (g.setR8 .b v).l = g.l := rfl
@[simp] theorem Regs.setR8_b_a (g : Regs) (v : Byte) : (g.setR8 .b v).a = g.a := rfl
@[simp] theorem Regs.setR8_c_b (g : Regs) (v : Byte) : (g.setR8 .c v).b = g.b := rfl
@[simp] theorem Regs.setR8_c_c (g : Regs) (v : Byte) : (g.setR8 .c v).c = v := rfl
@[simp] theorem Regs.setR8_c_d (g : Regs) (v : Byte) : (g.setR8 .c v).d = g.d := rfl
@[simp] theorem Regs.setR8_c_e (g : Regs) (v : Byte) : (g.setR8 .c v).e = g.e := rfl
@[simp] theorem Regs.setR8_c_h (g : Regs) (v : Byte) : (g.setR8 .c v).h = g.h := rfl
@[simp] theorem Regs.setR8_c_l (g : Regs) (v : Byte) : (g.setR8 .c v).l = g.l := rfl
@[simp] theorem Regs.setR8_c_a (g : Regs) (v : Byte) : (g.setR8 .c v).a = g.a := rfl
@[simp] theorem Regs.setR8_d_b (g : Regs) (v : Byte) : (g.setR8 .d v).b = g.b := rfl
@[simp] theorem Regs.setR8_d_c (g : Regs) (v : Byte) : (g.setR8 .d v).c = g.c := rfl
@[simp] theorem Regs.setR8_d_d (g : Regs) (v : Byte) : (g.setR8 .d v).d = v := rfl
@[simp] theorem Regs.setR8_d_e (g : Regs) (v : Byte) : (g.setR8 .d v).e = g.e := rfl
@[simp] theorem Regs.setR8_d_h (g : Regs) (v : Byte) : (g.setR8 .d v).h = g.h := rfl
@[simp] theorem Regs.setR8_d_l (g : Regs) (v : Byte) : (g.setR8 .d v).l = g.l := rfl
@[simp] theorem Regs.setR8_d_a (g : Regs) (v : Byte) : (g.setR8 .d v).a = g.a := rfl
@[simp] theorem Regs.setR8_e_b (g : Regs) (v : Byte) : (g.setR8 .e v).b = g.b := rfl
@[simp] theorem Regs.setR8_e_c (g : Regs) (v : Byte) : (g.setR8 .e v).c = g.c := rfl
@[simp] theorem Regs.setR8_e_d (g : Regs) (v : Byte) : (g.setR8 .e v).d = g.d := rfl
@[simp] theorem Regs.setR8_e_e (g : Regs) (v : Byte) : (g.setR8 .e v).e = v := rfl
@[simp] theorem Regs.setR8_e_h (g : Regs) (v : Byte) : (g.setR8 .e v).h = g.h := rfl
@[simp] theorem Regs.setR8_e_l (g : Regs) (v : Byte) : (g.setR8 .e v).l = g.l := rfl
@[simp] theorem Regs.setR8_e_a (g : Regs) (v : Byte) : (g.setR8 .e v).a = g.a := rfl
@[simp] theorem Regs.setR8_h_b (g : Regs) (v : Byte) : (g.setR8 .h v).b = g.b := rfl
@[simp] theorem Regs.setR8_h_c (g : Regs) (v : Byte) : (g.setR8 .h v).c = g.c := rfl
@[simp] theorem Regs.setR8_h_d (g : Regs) (v : Byte) : (g.setR8 .h v).d = g.d := rfl
@[simp] theorem Regs.setR8_h_e (g : Regs) (v : Byte) : (g.setR8 .h v).e = g.e := rfl
@[simp] theorem Regs.setR8_h_h (g : Regs) (v : Byte) : (g.setR8 .h v).h = v := rfl
@[simp] theorem Regs.setR8_h_l (g : Regs) (v : Byte) : (g.setR8 .h v).l = g.l := rfl
@[simp] theorem Regs.setR8_h_a (g : Regs) (v : Byte) : (g.setR8 .h v).a = g.a := rfl
@[simp] theorem Regs.setR8_l_b (g : Regs) (v : Byte) : (g.setR8 .l v).b = g.b := rfl
@[simp] theorem Regs.setR8_l_c (g : Regs) (v : Byte) : (g.setR8 .l v).c = g.c := rfl
@[simp] theorem Regs.setR8_l_d (g : Regs) (v : Byte) : (g.setR8 .l v).d = g.d := rfl
@[simp] theorem Regs.setR8_l_e (g : Regs) (v : Byte) : (g.setR8 .l v).e = g.e := rfl
@[simp] theorem Regs.setR8_l_h (g : Regs) (v : Byte) : (g.setR8 .l v).h = g.h := rfl
@[simp] theorem Regs.setR8_l_l (g : Regs) (v : Byte) : (g.setR8 .l v).l = v := rfl
@[simp] theorem Regs.setR8_l_a (g : Regs) (v : Byte) : (g.setR8 .l v).a = g.a := rfl
@[simp] theorem Regs.setR8_a_b (g : Regs) (v : Byte) : (g.setR8 .a v).b = g.b := rfl
@[simp] theorem Regs.setR8_a_c (g : Regs) (v : Byte) : (g.setR8 .a v).c = g.c := rfl
@[simp] theorem Regs.setR8_a_d (g : Regs) (v : Byte) : (g.setR8 .a v).d = g.d := rfl
@[simp] theorem Regs.setR8_a_e (g : Regs) (v : Byte) : (g.setR8 .a v).e = g.e := rfl
@[simp] theorem Regs.setR8_a_h (g : Regs) (v : Byte) : (g.setR8 .a v).h = g.h := rfl
@[simp] theorem Regs.setR8_a_l (g : Regs) (v : Byte) : (g.setR8 .a v).l = g.l := rfl
@[simp] theorem Regs.setR8_a_a (g : Regs) (v : Byte) : (g.setR8 .a v).a = v := rfl

@[simp] theorem Regs.setR8_f (g : Regs) (r : Reg8) (v : Byte) : (g.setR8 r v).f = g.f := by cases r <;> rfl
@[simp] theorem Regs.setR8_sp (g : Regs) (r : Reg8) (v : Byte) : (g.setR8 r v).sp = g.sp := by cases r <;> rfl
@[simp] theorem Regs.setR8_pc (g : Regs) (r : Reg8) (v : Byte) : (g.setR8 r v).pc = g.pc := by cases r <;> rfl
@[simp] theorem Regs.setR16_pc (g : Regs) (rr : Reg16) (v : Word) : (g.setR16 rr v).pc = g.pc := by cases rr <;> rfl

/-- A register read after a write of it. -/
theorem Regs.r8_setR8 (g : Regs) (r : Reg8) (v : Byte) : (g.setR8 r v).r8 r = v := by cases r <;> rfl

/-- A register read after a write of another. -/
theorem Regs.r8_setR8_other (g : Regs) (r r' : Reg8) (v : Byte) (h : r' ≠ r) : (g.setR8 r v).r8 r' = g.r8 r' := by
  cases r <;> cases r' <;> first | rfl | exact absurd rfl h

/-! ## Shared operations of an instruction's end -/

@[simp] theorem State.advance_regs (s : State) (len cost : Nat) :
    (s.advance len cost).regs = { s.regs with pc := s.regs.pc + BitVec.ofNat 16 len } := rfl
@[simp] theorem State.jump_regs (s : State) (t : Word) (cost : Nat) : (s.jump t cost).regs = { s.regs with pc := t } := rfl
@[simp] theorem State.advance_cycles (s : State) (len cost : Nat) : (s.advance len cost).cycles = s.cycles + cost := rfl
@[simp] theorem State.jump_cycles (s : State) (t : Word) (cost : Nat) : (s.jump t cost).cycles = s.cycles + cost := rfl
@[simp] theorem State.advance_ime (s : State) (len cost : Nat) : (s.advance len cost).ime = s.ime := rfl
@[simp] theorem State.advance_imeDelay (s : State) (len cost : Nat) : (s.advance len cost).imeDelay = s.imeDelay := rfl
@[simp] theorem State.advance_halted (s : State) (len cost : Nat) : (s.advance len cost).halted = s.halted := rfl
@[simp] theorem State.advance_cpuFault (s : State) (len cost : Nat) : (s.advance len cost).cpuFault = s.cpuFault := rfl
@[simp] theorem State.advance_cpuParked (s : State) (len cost : Nat) : (s.advance len cost).cpuParked = s.cpuParked := rfl
@[simp] theorem State.advance_cpuPos (s : State) (len cost : Nat) : (s.advance len cost).cpuPos = s.cpuPos := rfl
@[simp] theorem State.advance_mem (s : State) (len cost : Nat) : (s.advance len cost).mem = s.mem := rfl
@[simp] theorem State.advance_io (s : State) (len cost : Nat) : (s.advance len cost).io = s.io := rfl
@[simp] theorem State.advance_irqLatch (s : State) (len cost : Nat) : (s.advance len cost).irqLatch = s.irqLatch := rfl
@[simp] theorem State.advance_timerEnableLatch (s : State) (len cost : Nat) : (s.advance len cost).timerEnableLatch = s.timerEnableLatch := rfl
@[simp] theorem State.advance_timer (s : State) (len cost : Nat) : (s.advance len cost).timer = s.timer := rfl
@[simp] theorem State.advance_ppu (s : State) (len cost : Nat) : (s.advance len cost).ppu = s.ppu := rfl
@[simp] theorem State.advance_framebuffer (s : State) (len cost : Nat) : (s.advance len cost).framebuffer = s.framebuffer := rfl
@[simp] theorem State.advance_stepMode (s : State) (len cost : Nat) : (s.advance len cost).stepMode = s.stepMode := rfl
@[simp] theorem State.advance_joypad (s : State) (len cost : Nat) : (s.advance len cost).joypad = s.joypad := rfl
@[simp] theorem State.advance_hostPos (s : State) (len cost : Nat) : (s.advance len cost).hostPos = s.hostPos := rfl
@[simp] theorem State.advance_cartLog (s : State) (len cost : Nat) : (s.advance len cost).cartLog = s.cartLog := rfl
@[simp] theorem State.advance_turns (s : State) (len cost : Nat) : (s.advance len cost).turns = s.turns := rfl
@[simp] theorem State.advance_draws (s : State) (len cost : Nat) : (s.advance len cost).draws = s.draws := rfl
@[simp] theorem State.advance_params (s : State) (len cost : Nat) : (s.advance len cost).params = s.params := rfl
@[simp] theorem State.jump_ime (s : State) (t : Word) (cost : Nat) : (s.jump t cost).ime = s.ime := rfl
@[simp] theorem State.jump_imeDelay (s : State) (t : Word) (cost : Nat) : (s.jump t cost).imeDelay = s.imeDelay := rfl
@[simp] theorem State.jump_halted (s : State) (t : Word) (cost : Nat) : (s.jump t cost).halted = s.halted := rfl
@[simp] theorem State.jump_cpuFault (s : State) (t : Word) (cost : Nat) : (s.jump t cost).cpuFault = s.cpuFault := rfl
@[simp] theorem State.jump_cpuParked (s : State) (t : Word) (cost : Nat) : (s.jump t cost).cpuParked = s.cpuParked := rfl
@[simp] theorem State.jump_cpuPos (s : State) (t : Word) (cost : Nat) : (s.jump t cost).cpuPos = s.cpuPos := rfl
@[simp] theorem State.jump_mem (s : State) (t : Word) (cost : Nat) : (s.jump t cost).mem = s.mem := rfl
@[simp] theorem State.jump_io (s : State) (t : Word) (cost : Nat) : (s.jump t cost).io = s.io := rfl
@[simp] theorem State.jump_irqLatch (s : State) (t : Word) (cost : Nat) : (s.jump t cost).irqLatch = s.irqLatch := rfl
@[simp] theorem State.jump_timerEnableLatch (s : State) (t : Word) (cost : Nat) : (s.jump t cost).timerEnableLatch = s.timerEnableLatch := rfl
@[simp] theorem State.jump_timer (s : State) (t : Word) (cost : Nat) : (s.jump t cost).timer = s.timer := rfl
@[simp] theorem State.jump_ppu (s : State) (t : Word) (cost : Nat) : (s.jump t cost).ppu = s.ppu := rfl
@[simp] theorem State.jump_framebuffer (s : State) (t : Word) (cost : Nat) : (s.jump t cost).framebuffer = s.framebuffer := rfl
@[simp] theorem State.jump_stepMode (s : State) (t : Word) (cost : Nat) : (s.jump t cost).stepMode = s.stepMode := rfl
@[simp] theorem State.jump_joypad (s : State) (t : Word) (cost : Nat) : (s.jump t cost).joypad = s.joypad := rfl
@[simp] theorem State.jump_hostPos (s : State) (t : Word) (cost : Nat) : (s.jump t cost).hostPos = s.hostPos := rfl
@[simp] theorem State.jump_cartLog (s : State) (t : Word) (cost : Nat) : (s.jump t cost).cartLog = s.cartLog := rfl
@[simp] theorem State.jump_turns (s : State) (t : Word) (cost : Nat) : (s.jump t cost).turns = s.turns := rfl
@[simp] theorem State.jump_draws (s : State) (t : Word) (cost : Nat) : (s.jump t cost).draws = s.draws := rfl
@[simp] theorem State.jump_params (s : State) (t : Word) (cost : Nat) : (s.jump t cost).params = s.params := rfl

end Sys2Proof.Machine
end

