-- ==== Sys2Proof/Laws/Memory.lean ====
section
/-! SUPPORT. Lists by rising key: a read after a write, the canonical form, and the storage cells. -/

namespace Sys2Proof.Machine

variable {α : Type}

theorem listGet_listSet_same (k : Nat) (v : α) (l : List (Nat × α)) : listGet k (listSet k v l) = some v := by
  induction l with
  | nil => simp [listSet, listGet]
  | cons e r ih =>
    obtain ⟨k', v'⟩ := e
    simp only [listSet]
    split
    · simp [listGet]
    · split
      · simp [listGet]
      · simp [listGet, *]

theorem listGet_listSet_other (k j : Nat) (v : α) (l : List (Nat × α)) (h : j ≠ k) :
    listGet j (listSet k v l) = listGet j l := by
  induction l with
  | nil => simp [listSet, listGet, h]
  | cons e r ih =>
    obtain ⟨k', v'⟩ := e
    simp only [listSet]
    split
    · simp [listGet, h]
    · split
      · subst_vars; simp [listGet, h]
      · simp [listGet, ih]

/-- A property of every entry survives a write that has it. -/
theorem listSet_all (p : Nat × α → Bool) (k : Nat) (v : α) (l : List (Nat × α)) (hv : p (k, v) = true)
    (hl : l.all p = true) : (listSet k v l).all p = true := by
  induction l with
  | nil => simp [listSet, hv]
  | cons e r ih =>
    obtain ⟨k', v'⟩ := e
    simp only [List.all_cons, Bool.and_eq_true] at hl
    simp only [listSet]
    split
    · simp [hv, hl]
    · split
      · simp [hv, hl]
      · simp [hl.1, ih hl.2]

/-- A write keeps the keys strictly rising. -/
theorem rising_listSet (k : Nat) (v : α) (l : List (Nat × α)) (h : rising l = true) : rising (listSet k v l) = true := by
  induction l with
  | nil => simp [listSet, rising]
  | cons e r ih =>
    obtain ⟨k', v'⟩ := e
    simp only [rising, Bool.and_eq_true] at h
    obtain ⟨h1, h2⟩ := h
    simp only [listSet]
    split
    · rename_i hlt
      simp only [rising, List.all_cons, Bool.and_eq_true, decide_eq_true_eq]
      refine ⟨⟨hlt, ?_⟩, h1, h2⟩
      rw [List.all_eq_true] at h1 ⊢
      intro x hx
      have := h1 x hx
      simp only [decide_eq_true_eq] at this ⊢
      omega
    · split
      · subst_vars
        simp only [rising, Bool.and_eq_true]
        exact ⟨h1, h2⟩
      · simp only [rising, Bool.and_eq_true]
        refine ⟨listSet_all _ _ _ _ ?_ h1, ih h2⟩
        simp only [decide_eq_true_eq]
        omega

/-- Two lists with rising keys that answer every key alike are equal. -/
theorem rising_ext (l m : List (Nat × α)) (hl : rising l = true) (hm : rising m = true)
    (h : ∀ k, listGet k l = listGet k m) : l = m := by
  induction l generalizing m with
  | nil =>
    cases m with
    | nil => rfl
    | cons e r => have := h e.1; simp [listGet] at this
  | cons e r ih =>
    obtain ⟨k, v⟩ := e
    have low : ∀ (x : Nat) (t : List (Nat × α)), (t.all fun e => decide (x < e.1)) = true → listGet x t = none := by
      intro x t
      induction t with
      | nil => intro _; rfl
      | cons e t iht =>
        intro ht
        simp only [List.all_cons, Bool.and_eq_true, decide_eq_true_eq] at ht
        simp only [listGet]
        rw [if_neg (by omega)]
        exact iht ht.2
    cases m with
    | nil => have := h k; simp [listGet] at this
    | cons e' r' =>
      obtain ⟨k', v'⟩ := e'
      simp only [rising, Bool.and_eq_true] at hl hm
      have hk : k = k' := by
        rcases Nat.lt_trichotomy k k' with hlt | heq | hgt
        · have h1 := h k
          simp only [listGet, if_true] at h1
          rw [if_neg (by omega)] at h1
          rw [low k r'] at h1
          · cases h1
          · rw [List.all_eq_true] at hm ⊢
            intro x hx
            have := hm.1 x hx
            simp only [decide_eq_true_eq] at this ⊢
            omega
        · exact heq
        · have h1 := h k'
          simp only [listGet, if_true] at h1
          rw [if_neg (by omega)] at h1
          rw [low k' r] at h1
          · cases h1
          · have hl1 := hl.1
            rw [List.all_eq_true] at hl1 ⊢
            intro x hx
            have := hl1 x hx
            simp only [decide_eq_true_eq] at this ⊢
            omega
      subst hk
      have hv := h k
      simp only [listGet, if_true] at hv
      cases hv
      congr 1
      refine ih r' hl.2 hm.2 fun j => ?_
      by_cases hj : j = k
      · subst hj
        rw [low j r hl.1, low j r' hm.1]
      · have := h j
        simpa [listGet, hj] using this

/-! ## Storage cells -/

theorem cell_setCell_same (s : State) (k : Nat) (v : Byte) : (s.setCell k v).cell k = v := by
  simp [State.cell, listGet_listSet_same]

theorem cell_setCell_other (s : State) (k j : Nat) (v : Byte) (h : j ≠ k) : (s.setCell k v).cell j = s.cell j := by
  simp [State.cell, listGet_listSet_other _ _ _ _ h]

/-- Every write of a storage cell keeps the canonical form of the memory. -/
theorem wf_setCell (s : State) (k : Nat) (v : Byte) (hk : isCell k = true) (h : Memory.wf s.mem = true) :
    Memory.wf (s.setCell k v).mem = true := by
  simp only [Memory.wf, Bool.and_eq_true, State.setCell_mem] at h ⊢
  exact ⟨rising_listSet _ _ _ h.1, listSet_all _ _ _ _ hk h.2⟩

/-- The memory at launch has the canonical form. -/
theorem wf_reset : Memory.wf State.reset.mem = true := by decide

end Sys2Proof.Machine
end

