-- ==== Sys2Proof/Laws/Agents.lean ====
section
/-! SUPPORT. What the engines, the Bus and the host leave alone: the state private to the CPU. `State.yield`, which every
bus action of the CPU goes through, changes none of it. -/

namespace Sys2Proof.Machine

/-- `t` has the CPU-private state of `s`, and its parameters and draws. -/
structure SameCpu (s t : State) : Prop where
  regs : t.regs = s.regs
  ime : t.ime = s.ime
  imeDelay : t.imeDelay = s.imeDelay
  halted : t.halted = s.halted
  cpuFault : t.cpuFault = s.cpuFault
  cpuPos : t.cpuPos = s.cpuPos
  cycles : t.cycles = s.cycles
  draws : t.draws = s.draws
  params : t.params = s.params

theorem SameCpu.refl (s : State) : SameCpu s s := ⟨rfl, rfl, rfl, rfl, rfl, rfl, rfl, rfl, rfl⟩

theorem SameCpu.trans {s t u : State} (h : SameCpu s t) (k : SameCpu t u) : SameCpu s u :=
  ⟨k.1.trans h.1, k.2.trans h.2, k.3.trans h.3, k.4.trans h.4, k.5.trans h.5, k.6.trans h.6, k.7.trans h.7,
    k.8.trans h.8, k.9.trans h.9⟩

/-! ## The register file and the Bus -/

theorem sameCpu_ioStore (s : State) (a : Word) (v : Byte) : SameCpu s (s.ioStore a v) := by
  unfold State.ioStore; split <;> constructor <;> rfl

theorem sameCpu_ioAnd (s : State) (a : Word) (v : Byte) : SameCpu s (s.ioAnd a v) := sameCpu_ioStore ..
theorem sameCpu_ioOr (s : State) (a : Word) (v : Byte) : SameCpu s (s.ioOr a v) := sameCpu_ioStore ..
theorem sameCpu_ioXor (s : State) (a : Word) (v : Byte) : SameCpu s (s.ioXor a v) := sameCpu_ioStore ..
theorem sameCpu_ioAdd (s : State) (a : Word) (v : Byte) : SameCpu s (s.ioAdd a v) := sameCpu_ioStore ..
theorem sameCpu_raiseIf (s : State) (i : Nat) : SameCpu s (s.raiseIf i) := sameCpu_ioOr s _ _
theorem sameCpu_fireIrq (s : State) : SameCpu s s.fireIrq := ⟨rfl, rfl, rfl, rfl, rfl, rfl, rfl, rfl, rfl⟩

theorem sameCpu_poke (s : State) (a : Word) (v : Byte) : SameCpu s (s.poke a v) := by
  unfold State.poke
  split <;> first | exact SameCpu.refl s | skip
  · unfold State.cartWrite; split <;> constructor <;> rfl
  · unfold State.cartWrite; split <;> constructor <;> rfl
  · split
    · rename_i n _; cases n <;> constructor <;> rfl
    · split <;> constructor <;> rfl
  all_goals constructor <;> rfl

/-! ## The PPU -/

theorem sameCpu_setMode (s : State) (m : Byte) : SameCpu s (s.setMode m) := sameCpu_ioXor s _ _

theorem sameCpu_setCoincidence (s : State) (c : Bool) : SameCpu s (s.setCoincidence c) := by
  unfold State.setCoincidence; split <;> exact sameCpu_ioStore ..

/-- A change of the PPU's own state is none of the CPU's. -/
theorem SameCpu.withPpu {s t : State} (h : SameCpu s t) (p : Ppu) : SameCpu s { t with ppu := p } :=
  ⟨h.1, h.2, h.3, h.4, h.5, h.6, h.7, h.8, h.9⟩

theorem sameCpu_ppuMove (s : State) : SameCpu s s.ppuMove := by
  unfold State.ppuMove
  split
  · rename_i p _
    cases p <;> first
      | exact (sameCpu_setMode s _).withPpu _
      | exact (sameCpu_raiseIf s _).withPpu _
      | (constructor <;> rfl)
  · rename_i p _
    cases p <;> first
      | exact (sameCpu_setMode s _).withPpu _
      | (constructor <;> rfl)
  · rename_i p _
    cases p <;> first
      | exact (sameCpu_setMode s _).withPpu _
      | exact (sameCpu_raiseIf s _).withPpu _
      | exact (sameCpu_ioAdd s _ _).withPpu _
      | exact (sameCpu_setCoincidence s _).withPpu _
      | (constructor <;> rfl)
  · rename_i p _
    cases p <;> first
      | exact (sameCpu_setMode s _).withPpu _
      | exact (sameCpu_raiseIf s _).withPpu _
      | (constructor <;> rfl)
      | skip
    · simp only [State.vBlankAction]; split <;> constructor <;> rfl
    · simp only [State.vBlankAction]
      split
      · exact (sameCpu_ioStore s _ _).withPpu _
      · exact (sameCpu_ioAdd s _ _).withPpu _
    · simp only [State.vBlankAction]
      split <;> exact (sameCpu_setCoincidence s _).withPpu _

theorem sameCpu_ppuToHold (s : State) (stop : Bool) (n : Nat) : SameCpu s (s.ppuToHold stop n) := by
  induction n generalizing s with
  | zero => exact SameCpu.refl s
  | succ n ih =>
    simp only [State.ppuToHold]
    split
    · exact SameCpu.refl s
    · exact (sameCpu_ppuMove s).trans (ih _)

theorem sameCpu_ppuToBoundary (s : State) (n : Nat) : SameCpu s (s.ppuToBoundary n) := by
  induction n generalizing s with
  | zero => exact SameCpu.refl s
  | succ n ih =>
    simp only [State.ppuToBoundary]
    split
    · exact SameCpu.refl s
    · exact (sameCpu_ppuMove s).trans (ih _)

theorem sameCpu_ppuAction (s : State) : SameCpu s s.ppuAction := by
  unfold State.ppuAction
  split
  · exact SameCpu.refl s
  · split
    · exact (SameCpu.refl s).withPpu _
    · exact sameCpu_ppuMove s

theorem sameCpu_ppuCycle (s : State) (gate : Bool) : SameCpu s (s.ppuCycle gate) := by
  simp only [State.ppuCycle]
  have h := sameCpu_ppuToHold s (gate && s.stepMode) ppuFuel
  split
  · exact SameCpu.refl s
  · split
    · exact h.withPpu _
    · split
      · have k := (h.trans (sameCpu_ppuMove _)).trans (sameCpu_ppuToBoundary _ ppuFuel)
        split
        · exact k.withPpu _
        · exact k.trans (sameCpu_ppuToHold _ _ _)
      · exact h.withPpu _

theorem sameCpu_ppuCycles (s : State) (gate : Bool) (n : Nat) : SameCpu s (s.ppuCycles gate n) := by
  induction n generalizing s with
  | zero => exact SameCpu.refl s
  | succ n ih => exact (sameCpu_ppuCycle s gate).trans (ih _)

/-! ## The Timer -/

/-- A change of the Timer's own state is none of the CPU's. -/
theorem SameCpu.withTimer {s t : State} (h : SameCpu s t) (p : Timer) : SameCpu s { t with timer := p } :=
  ⟨h.1, h.2, h.3, h.4, h.5, h.6, h.7, h.8, h.9⟩

theorem sameCpu_timerMove (s : State) : SameCpu s s.timerMove := by
  unfold State.timerMove
  split
  · split <;> constructor <;> rfl
  · split <;> constructor <;> rfl
  · split
    · unfold State.timerTick; split <;> constructor <;> rfl
    · constructor <;> rfl
  · exact (sameCpu_ioAdd s _ _).withTimer _
  · exact (SameCpu.refl s).withTimer _
  · exact (sameCpu_ioStore s _ _).withTimer _
  · exact (sameCpu_raiseIf s _).withTimer _
  · exact (sameCpu_fireIrq s).withTimer _

theorem sameCpu_timerToRest (s : State) (n : Nat) : SameCpu s (s.timerToRest n) := by
  induction n generalizing s with
  | zero => exact SameCpu.refl s
  | succ n ih =>
    simp only [State.timerToRest]
    split
    · exact SameCpu.refl s
    · exact (sameCpu_timerMove s).trans (ih _)

theorem sameCpu_divCycle (s : State) : SameCpu s s.divCycle := by
  unfold State.divCycle
  split
  · split
    · exact ((SameCpu.refl s).withTimer { s.timer with divCount := 0 }).trans (sameCpu_ioAdd _ _ _)
    · exact (SameCpu.refl s).withTimer _
  · exact SameCpu.refl s

theorem sameCpu_timerAction (s : State) : SameCpu s s.timerAction := by
  unfold State.timerAction
  split
  · exact SameCpu.refl s
  · split
    · exact (SameCpu.refl s).withTimer _
    · exact sameCpu_timerMove s

theorem sameCpu_divAction (s : State) : SameCpu s s.divAction := by
  unfold State.divAction
  split
  · exact SameCpu.refl s
  · exact sameCpu_divCycle s

theorem sameCpu_timerWake (s : State) : SameCpu s s.timerWake := by
  unfold State.timerWake
  split
  · exact (sameCpu_timerMove s).trans (sameCpu_timerMove _)
  · exact SameCpu.refl s

theorem sameCpu_timerTickCycle (s : State) : SameCpu s s.timerTickCycle := by
  unfold State.timerTickCycle
  split
  · exact (sameCpu_timerMove s).trans (sameCpu_timerToRest _ _)
  · exact SameCpu.refl s

theorem sameCpu_timerCycle (s : State) (gate : Bool) : SameCpu s (s.timerCycle gate) := by
  simp only [State.timerCycle]
  have h := sameCpu_timerToRest s timerFuel
  split
  · exact SameCpu.refl s
  · split
    · exact h.withTimer _
    · exact ((h.trans (sameCpu_timerWake _)).trans (sameCpu_timerTickCycle _)).trans (sameCpu_divCycle _)

theorem sameCpu_timerCycles (s : State) (gate : Bool) (n : Nat) : SameCpu s (s.timerCycles gate n) := by
  induction n generalizing s with
  | zero => exact SameCpu.refl s
  | succ n ih => exact (sameCpu_timerCycle s gate).trans (ih _)

theorem sameCpu_engineCycles (s : State) (gate : Bool) (n : Nat) : SameCpu s (s.engineCycles gate n) :=
  (sameCpu_timerCycles s gate n).trans (sameCpu_ppuCycles _ gate n)

/-! ## The host -/

theorem hostProceed_idle {s : State} (h : s.hostPos = .idle) : s.hostProceed = s := by unfold State.hostProceed; rw [h]

theorem hostFinish_idle {s : State} (h : s.hostPos = .idle) : s.hostFinish = s := by
  unfold State.hostFinish; rw [hostProceed_idle h, hostProceed_idle h]

/-- Two actions end every raise of the host. -/
theorem hostFinish_hostPos (s : State) : s.hostFinish.hostPos = .idle := by
  unfold State.hostFinish State.hostProceed
  cases h : s.hostPos <;> simp [h, State.hostRaise]

theorem sameCpu_hostRaise (s : State) (i : Nat) : SameCpu s (s.hostRaise i) := by
  have h := sameCpu_raiseIf s i
  exact ⟨h.1, h.2, h.3, h.4, h.5, h.6, h.7, h.8, h.9⟩

theorem sameCpu_hostProceed (s : State) : SameCpu s s.hostProceed := by
  unfold State.hostProceed; split
  · exact SameCpu.refl s
  · exact sameCpu_hostRaise s 4
  · constructor <;> rfl

theorem sameCpu_hostFinish (s : State) : SameCpu s s.hostFinish :=
  (sameCpu_hostProceed s).trans (sameCpu_hostProceed _)

theorem sameCpu_hostAction (s : State) (h : HostAction) : SameCpu s (s.hostAction h) := by
  have k := sameCpu_hostFinish s
  cases h with
  | proceed => exact sameCpu_hostProceed s
  | pause => exact ⟨k.1, k.2, k.3, k.4, k.5, k.6, k.7, k.8, k.9⟩
  | resume => exact ⟨k.1, k.2, k.3, k.4, k.5, k.6, k.7, k.8, k.9⟩
  | key key down => exact ⟨k.1, k.2, k.3, k.4, k.5, k.6, k.7, k.8, k.9⟩
  | raiseSerial => exact k.trans (sameCpu_hostRaise _ _)
  | writeTac v => exact k.trans (sameCpu_poke s.hostFinish 0xFF07 v)

/-! ## The interleaving -/

theorem sameCpu_perform (s : State) (t : Turn) : SameCpu s (s.perform t) := by
  cases t
  · exact SameCpu.refl s
  · exact sameCpu_ppuAction s
  · exact sameCpu_timerAction s
  · exact sameCpu_divAction s
  · exact sameCpu_hostAction s _

theorem SameCpu.withTurns {s t : State} (h : SameCpu s t) (ts : List Turn) : SameCpu s { t with turns := ts } :=
  ⟨h.1, h.2, h.3, h.4, h.5, h.6, h.7, h.8, h.9⟩

theorem sameCpu_runOthers (s : State) (ts : List Turn) : SameCpu s (s.runOthers ts) := by
  induction ts generalizing s with
  | nil => exact (SameCpu.refl s).withTurns _
  | cons t r ih =>
    cases t with
    | cpu => exact (SameCpu.refl s).withTurns _
    | ppu => exact (sameCpu_perform s .ppu).trans (ih _)
    | timer => exact (sameCpu_perform s .timer).trans (ih _)
    | div => exact (sameCpu_perform s .div).trans (ih _)
    | host h => exact (sameCpu_perform s (.host h)).trans (ih _)

theorem sameCpu_others (s : State) : SameCpu s s.others := by
  unfold State.others
  split
  · exact SameCpu.refl s
  · exact sameCpu_runOthers s _

theorem sameCpu_takeTurn (s : State) : SameCpu s s.takeTurn := by
  unfold State.takeTurn
  split
  · exact (SameCpu.refl s).withTurns _
  · exact SameCpu.refl s

/-- The other agents leave the CPU's private state alone. -/
theorem sameCpu_yield (s : State) : SameCpu s s.yield := (sameCpu_others s).trans (sameCpu_takeTurn _)

@[simp] theorem State.yield_regs (s : State) : s.yield.regs = s.regs := (sameCpu_yield s).regs
@[simp] theorem State.yield_ime (s : State) : s.yield.ime = s.ime := (sameCpu_yield s).ime
@[simp] theorem State.yield_imeDelay (s : State) : s.yield.imeDelay = s.imeDelay := (sameCpu_yield s).imeDelay
@[simp] theorem State.yield_halted (s : State) : s.yield.halted = s.halted := (sameCpu_yield s).halted
@[simp] theorem State.yield_cpuFault (s : State) : s.yield.cpuFault = s.cpuFault := (sameCpu_yield s).cpuFault
@[simp] theorem State.yield_cpuPos (s : State) : s.yield.cpuPos = s.cpuPos := (sameCpu_yield s).cpuPos
@[simp] theorem State.yield_cycles (s : State) : s.yield.cycles = s.cycles := (sameCpu_yield s).cycles
@[simp] theorem State.yield_draws (s : State) : s.yield.draws = s.draws := (sameCpu_yield s).draws
@[simp] theorem State.yield_params (s : State) : s.yield.params = s.params := (sameCpu_yield s).params

@[simp] theorem State.poke_regs (s : State) (a : Word) (v : Byte) : (s.poke a v).regs = s.regs := (sameCpu_poke s a v).regs
@[simp] theorem State.poke_ime (s : State) (a : Word) (v : Byte) : (s.poke a v).ime = s.ime := (sameCpu_poke s a v).ime
@[simp] theorem State.poke_imeDelay (s : State) (a : Word) (v : Byte) : (s.poke a v).imeDelay = s.imeDelay :=
  (sameCpu_poke s a v).imeDelay
@[simp] theorem State.poke_halted (s : State) (a : Word) (v : Byte) : (s.poke a v).halted = s.halted :=
  (sameCpu_poke s a v).halted
@[simp] theorem State.poke_cpuFault (s : State) (a : Word) (v : Byte) : (s.poke a v).cpuFault = s.cpuFault :=
  (sameCpu_poke s a v).cpuFault
@[simp] theorem State.poke_cpuPos (s : State) (a : Word) (v : Byte) : (s.poke a v).cpuPos = s.cpuPos :=
  (sameCpu_poke s a v).cpuPos
@[simp] theorem State.poke_cycles (s : State) (a : Word) (v : Byte) : (s.poke a v).cycles = s.cycles :=
  (sameCpu_poke s a v).cycles
@[simp] theorem State.poke_draws (s : State) (a : Word) (v : Byte) : (s.poke a v).draws = s.draws :=
  (sameCpu_poke s a v).draws
@[simp] theorem State.poke_params (s : State) (a : Word) (v : Byte) : (s.poke a v).params = s.params :=
  (sameCpu_poke s a v).params

/-- With no other agent's turn listed, nothing happens between two bus actions. -/
theorem yield_of_quiet (s : State) (h : s.quiet = true) : s.yield = s := by
  simp only [State.quiet, Bool.or_eq_true, beq_iff_eq] at h
  have key : s.others = s := by
    unfold State.others
    split
    · rfl
    · rename_i hs
      rcases h with h | h
      · rw [h] at hs; cases hs
      · rw [h]; cases s; cases h; rfl
  rw [State.yield, key]
  unfold State.takeTurn
  split
  · rename_i hs ht
    rcases h with h | h
    · rw [h] at hs; cases hs
    · rw [h] at ht; cases ht
  · rfl

end Sys2Proof.Machine
end

