-- ==== Sys2Proof/Laws/Flags.lean ====
section
/-! SUPPORT. The flag byte and the byte operations in the numbers of the claims: each operation of Machine/Flags.lean by
one lemma. -/

namespace Sys2Proof.Machine

/-! ## The flag byte -/

theorem flagsAre_mkF (z n h c : Bool) : FlagsAre (maskF (mkF z n h c)) z n h c := by
  cases z <;> cases n <;> cases h <;> cases c <;> decide

theorem flagsAre_of_eq {z n h c z' n' h' c' : Bool} (e1 : z = z') (e2 : n = n') (e3 : h = h') (e4 : c = c') :
    FlagsAre (maskF (mkF z n h c)) z' n' h' c' := by
  subst e1 e2 e3 e4; exact flagsAre_mkF ..

theorem beq_zero_eq (v : Byte) : (v == 0) = decide (v.toNat = 0) := by
  by_cases h : v = 0
  · subst h; rfl
  · have : ¬ v.toNat = 0 := fun e => h (BitVec.eq_of_toNat_eq e)
    simp only [this, decide_false, beq_eq_false_iff_ne]; exact h

theorem flagZ_eq (f : Byte) : flagZ f = zeroOf f := by
  simp [flagZ, bit, zeroOf, BitVec.getLsbD, Nat.testBit_eq_decide_div_mod_eq]
theorem flagN_eq (f : Byte) : flagN f = negativeOf f := by
  simp [flagN, bit, negativeOf, BitVec.getLsbD, Nat.testBit_eq_decide_div_mod_eq]
theorem flagH_eq (f : Byte) : flagH f = halfOf f := by
  simp [flagH, bit, halfOf, BitVec.getLsbD, Nat.testBit_eq_decide_div_mod_eq]
theorem flagC_eq (f : Byte) : flagC f = carryOf f := by
  simp [flagC, bit, carryOf, BitVec.getLsbD, Nat.testBit_eq_decide_div_mod_eq]

theorem holds_eq (cc : Cond) (f : Byte) : cc.holds f = condition cc f := by
  have hz := flagZ_eq f
  have hc := flagC_eq f
  simp only [flagZ, flagC] at hz hc
  cases cc <;> simp [Cond.holds, condition, hz, hc]

/-! ## Arithmetic -/

theorem sub_toNat (a o : Byte) (c : Bool) :
    ((a - o - BitVec.ofNat 8 c.toNat).toNat : Int) = ((a.toNat : Int) - o.toNat - (c.toNat : Nat)) % 256 := by
  have := a.isLt; have := o.isLt
  rw [BitVec.toNat_sub, BitVec.toNat_sub, BitVec.toNat_ofNat]
  cases c <;> simp <;> omega

theorem difference_subOp (c : Bool) (g : Regs) (o : Byte) :
    Difference c.toNat g o (subOp g.a o c).val (maskF (subOp g.a o c).f) := by
  refine ⟨sub_toNat .., ?_⟩
  simp only [subOp]
  exact flagsAre_of_eq (beq_zero_eq _) rfl rfl rfl

theorem steps_incOp (f o : Byte) : Steps true f o (incOp f o).val (maskF (incOp f o).f) := by
  have := o.isLt
  refine ⟨?_, ?_⟩
  · simp only [incOp]; rw [BitVec.toNat_add]; simp
  · simp only [incOp]
    refine flagsAre_of_eq (beq_zero_eq _) rfl ?_ (flagC_eq f)
    unfold lowNibble; by_cases h : o.toNat % 16 = 15 <;> simp [h]

theorem steps_decOp (f o : Byte) : Steps false f o (decOp f o).val (maskF (decOp f o).f) := by
  have := o.isLt
  refine ⟨?_, ?_⟩
  · simp only [decOp]; rw [BitVec.toNat_sub]; simp; omega
  · simp only [decOp]
    refine flagsAre_of_eq (beq_zero_eq _) rfl ?_ (flagC_eq f)
    unfold lowNibble; by_cases h : o.toNat % 16 = 0 <;> simp [h]

/-! ## Bits -/

theorem resOp_getLsbD (b : BitVec 3) (o : Byte) (k : Nat) (hk : k < 8) :
    (resOp b o).getLsbD k = (o.getLsbD k && decide (k ≠ b.toNat)) := by
  have hb := b.isLt
  have e : decide (k < 8) = true := by simp [hk]
  simp only [resOp, BitVec.getLsbD_and, BitVec.getLsbD_not, BitVec.getLsbD_shiftLeft, e]
  by_cases h : k < b.toNat
  · have : k ≠ b.toNat := by omega
    simp [h, this]
  · by_cases h2 : k = b.toNat
    · simp [h2]
    · have h3 : k - b.toNat ≠ 0 := by omega
      simp [h2, h3]

theorem setOp_getLsbD (b : BitVec 3) (o : Byte) (k : Nat) (hk : k < 8) :
    (setOp b o).getLsbD k = (o.getLsbD k || decide (k = b.toNat)) := by
  have hb := b.isLt
  have e : decide (k < 8) = true := by simp [hk]
  simp only [setOp, BitVec.getLsbD_or, BitVec.getLsbD_shiftLeft, e]
  by_cases h : k < b.toNat
  · have : k ≠ b.toNat := by omega
    simp [h, this]
  · by_cases h2 : k = b.toNat
    · simp [h2, hb]
    · have h3 : k - b.toNat ≠ 0 := by omega
      simp [h2, h3]

end Sys2Proof.Machine
end

