-- ==== Sys2Proof/Laws/Ops.lean ====
section
/-! SUPPORT. The shared operations of the meanings, each by one equation in the terms of the claims: what it reads, what
the state is after it, and what it leaves. -/

namespace Sys2Proof.Machine

theorem busRead_eq (s : State) (a : Word) : s.busRead a = (s.yield.peek a, s.afterRead) := rfl

theorem busWrite_eq (s : State) (a : Word) (v : Byte) : s.busWrite a v = s.afterWrite a v := rfl

@[simp] theorem State.afterRead_regs (s : State) : s.afterRead.regs = s.regs := s.yield_regs
@[simp] theorem State.afterRead_cycles (s : State) : s.afterRead.cycles = s.cycles := s.yield_cycles
@[simp] theorem State.afterRead_ime (s : State) : s.afterRead.ime = s.ime := s.yield_ime
@[simp] theorem State.afterRead_imeDelay (s : State) : s.afterRead.imeDelay = s.imeDelay := s.yield_imeDelay
@[simp] theorem State.afterRead_halted (s : State) : s.afterRead.halted = s.halted := s.yield_halted
@[simp] theorem State.afterRead_cpuFault (s : State) : s.afterRead.cpuFault = s.cpuFault := s.yield_cpuFault
@[simp] theorem State.afterRead_cpuPos (s : State) : s.afterRead.cpuPos = s.cpuPos := s.yield_cpuPos
@[simp] theorem State.afterRead_params (s : State) : s.afterRead.params = s.params := s.yield_params
@[simp] theorem State.afterRead_draws (s : State) : s.afterRead.draws = s.draws + 1 := congrArg (· + 1) s.yield_draws

@[simp] theorem State.afterWrite_regs (s : State) (a : Word) (v : Byte) : (s.afterWrite a v).regs = s.regs := by
  simp [State.afterWrite]
@[simp] theorem State.afterWrite_cycles (s : State) (a : Word) (v : Byte) : (s.afterWrite a v).cycles = s.cycles := by
  simp [State.afterWrite]
@[simp] theorem State.afterWrite_ime (s : State) (a : Word) (v : Byte) : (s.afterWrite a v).ime = s.ime := by
  simp [State.afterWrite]
@[simp] theorem State.afterWrite_imeDelay (s : State) (a : Word) (v : Byte) :
    (s.afterWrite a v).imeDelay = s.imeDelay := by
  simp [State.afterWrite]
@[simp] theorem State.afterWrite_halted (s : State) (a : Word) (v : Byte) : (s.afterWrite a v).halted = s.halted := by
  simp [State.afterWrite]
@[simp] theorem State.afterWrite_cpuFault (s : State) (a : Word) (v : Byte) :
    (s.afterWrite a v).cpuFault = s.cpuFault := by
  simp [State.afterWrite]
@[simp] theorem State.afterWrite_cpuPos (s : State) (a : Word) (v : Byte) : (s.afterWrite a v).cpuPos = s.cpuPos := by
  simp [State.afterWrite]
@[simp] theorem State.afterWrite_params (s : State) (a : Word) (v : Byte) : (s.afterWrite a v).params = s.params := by
  simp [State.afterWrite]

/-! ## The CPU's registers do not reach the Bus and the other agents -/

/-- The state with other registers and another cycle counter. -/
def State.withCpu (s : State) (g : Regs) (n : Nat) : State := { s with regs := g, cycles := n }

@[simp] theorem State.withCpu_self (s : State) : s.withCpu s.regs s.cycles = s := rfl
@[simp] theorem State.withCpu_withCpu (s : State) (g g' : Regs) (n n' : Nat) :
    (s.withCpu g n).withCpu g' n' = s.withCpu g' n' := rfl

section
variable (s : State) (g : Regs) (n : Nat)

theorem withCpu_ioStore (a : Word) (v : Byte) : (s.withCpu g n).ioStore a v = (s.ioStore a v).withCpu g n := by
  unfold State.ioStore; split <;> rfl

theorem withCpu_ioLoad (a : Word) : (s.withCpu g n).ioLoad a = s.ioLoad a := rfl

theorem withCpu_ioAnd (a : Word) (v : Byte) : (s.withCpu g n).ioAnd a v = (s.ioAnd a v).withCpu g n :=
  withCpu_ioStore ..
theorem withCpu_ioOr (a : Word) (v : Byte) : (s.withCpu g n).ioOr a v = (s.ioOr a v).withCpu g n :=
  withCpu_ioStore ..
theorem withCpu_ioXor (a : Word) (v : Byte) : (s.withCpu g n).ioXor a v = (s.ioXor a v).withCpu g n :=
  withCpu_ioStore ..
theorem withCpu_ioAdd (a : Word) (v : Byte) : (s.withCpu g n).ioAdd a v = (s.ioAdd a v).withCpu g n :=
  withCpu_ioStore ..
theorem withCpu_raiseIf (i : Nat) : (s.withCpu g n).raiseIf i = (s.raiseIf i).withCpu g n := withCpu_ioOr s g n _ _
theorem withCpu_setMode (m : Byte) : (s.withCpu g n).setMode m = (s.setMode m).withCpu g n := withCpu_ioXor s g n _ _

theorem withCpu_setCoincidence (c : Bool) :
    (s.withCpu g n).setCoincidence c = (s.setCoincidence c).withCpu g n := by
  unfold State.setCoincidence
  rw [withCpu_ioOr, withCpu_ioAnd]
  split <;> rfl

theorem withCpu_poke (a : Word) (v : Byte) : (s.withCpu g n).poke a v = (s.poke a v).withCpu g n := by
  unfold State.poke
  split <;> try rfl
  · unfold State.cartWrite
    have h : (s.withCpu g n).params.cart = s.params.cart := rfl
    rw [h]; split <;> rfl
  · unfold State.cartWrite
    have h : (s.withCpu g n).params.cart = s.params.cart := rfl
    rw [h]; split <;> rfl
  · split
    · rename_i m _; cases m <;> rfl
    · have h : (s.withCpu g n).params = s.params := rfl
      rw [h]; split <;> rfl

theorem withCpu_peek (a : Word) : (s.withCpu g n).peek a = s.peek a := rfl

theorem withCpu_ppuMove : (s.withCpu g n).ppuMove = s.ppuMove.withCpu g n := by
  unfold State.ppuMove
  have h : (s.withCpu g n).ppu = s.ppu := rfl
  rw [h]
  split
  · rename_i p _
    cases p <;> simp only [State.oamAction] <;> rfl
  · rename_i p _
    cases p <;> simp only [State.xferAction] <;> rfl
  · rename_i p _
    cases p <;> simp only [State.hBlankAction] <;> first
      | rfl
      | (rw [withCpu_setCoincidence]; rfl)
  · rename_i p _
    cases p <;> simp only [State.vBlankAction] <;> first
      | rfl
      | skip
    · have k : (s.withCpu g n).params = s.params := rfl
      have k' : (s.withCpu g n).seeStat = s.seeStat.withCpu g n := rfl
      have k'' : (s.seeStat.withCpu g n).ppu = s.seeStat.ppu := rfl
      rw [k, k', k'']
      split <;> rfl
    · rw [withCpu_ioStore, withCpu_ioAdd, h]
      split <;> rfl
    · rw [withCpu_setCoincidence, h]
      split <;> rfl

theorem withCpu_ppuAction : (s.withCpu g n).ppuAction = s.ppuAction.withCpu g n := by
  unfold State.ppuAction
  rw [withCpu_ppuMove]
  have h : (s.withCpu g n).ppu = s.ppu := rfl
  have h' : (s.withCpu g n).stepMode = s.stepMode := rfl
  rw [h, h']
  split
  · rfl
  · split <;> rfl

theorem withCpu_timerMove : (s.withCpu g n).timerMove = s.timerMove.withCpu g n := by
  unfold State.timerMove
  have h : (s.withCpu g n).timer = s.timer := rfl
  have h' : (s.withCpu g n).timerEnableLatch = s.timerEnableLatch := rfl
  rw [h, h', withCpu_ioLoad, withCpu_ioLoad]
  split
  · split <;> rfl
  · split <;> rfl
  · split
    · unfold State.timerTick; rw [h]; split <;> rfl
    · rfl
  · rw [withCpu_ioAdd]; rfl
  · rfl
  · rw [withCpu_ioStore]; rfl
  · rw [withCpu_raiseIf]; rfl
  · rfl

theorem withCpu_timerAction : (s.withCpu g n).timerAction = s.timerAction.withCpu g n := by
  unfold State.timerAction
  rw [withCpu_timerMove]
  have h : (s.withCpu g n).timer = s.timer := rfl
  have h' : (s.withCpu g n).stepMode = s.stepMode := rfl
  rw [h, h']
  split
  · rfl
  · split <;> rfl

theorem withCpu_divAction : (s.withCpu g n).divAction = s.divAction.withCpu g n := by
  unfold State.divAction State.divCycle
  have h : (s.withCpu g n).timer = s.timer := rfl
  have h' : (s.withCpu g n).params = s.params := rfl
  rw [h, h']
  split
  · rfl
  · split
    · split
      · rw [← withCpu_ioAdd]; rfl
      · rfl
    · rfl

theorem withCpu_hostRaise (i : Nat) : (s.withCpu g n).hostRaise i = (s.hostRaise i).withCpu g n := by
  unfold State.hostRaise; rw [withCpu_raiseIf]; rfl

theorem withCpu_hostProceed : (s.withCpu g n).hostProceed = s.hostProceed.withCpu g n := by
  unfold State.hostProceed
  have h : (s.withCpu g n).hostPos = s.hostPos := rfl
  rw [h]; split
  · rfl
  · exact withCpu_hostRaise ..
  · rfl

theorem withCpu_hostFinish : (s.withCpu g n).hostFinish = s.hostFinish.withCpu g n := by
  unfold State.hostFinish; rw [withCpu_hostProceed, withCpu_hostProceed]

theorem withCpu_hostKey (k : Key) (down : Bool) : (s.withCpu g n).hostKey k down = (s.hostKey k down).withCpu g n := by
  unfold State.hostKey
  have e : (s.withCpu g n).lineSelected k = s.lineSelected k := by cases k <;> rfl
  rw [e]; rfl

theorem withCpu_hostAction (h : HostAction) : (s.withCpu g n).hostAction h = (s.hostAction h).withCpu g n := by
  cases h with
  | proceed => exact withCpu_hostProceed ..
  | pause => simp only [State.hostAction, withCpu_hostFinish]; rfl
  | resume => simp only [State.hostAction, withCpu_hostFinish]; rfl
  | key k down => simp only [State.hostAction, withCpu_hostFinish]; exact withCpu_hostKey ..
  | raiseSerial => simp only [State.hostAction, withCpu_hostFinish]; exact withCpu_hostRaise ..
  | writeTac v => simp only [State.hostAction, withCpu_hostFinish]; exact withCpu_poke ..

theorem withCpu_runOthers (ts : List Turn) : (s.withCpu g n).runOthers ts = (s.runOthers ts).withCpu g n := by
  induction ts generalizing s with
  | nil => rfl
  | cons t r ih =>
    cases t with
    | cpu => rfl
    | ppu => simp only [State.runOthers, State.perform, withCpu_ppuAction]; exact ih _
    | timer => simp only [State.runOthers, State.perform, withCpu_timerAction]; exact ih _
    | div => simp only [State.runOthers, State.perform, withCpu_divAction]; exact ih _
    | host h => simp only [State.runOthers, State.perform, withCpu_hostAction]; exact ih _

theorem withCpu_yield : (s.withCpu g n).yield = s.yield.withCpu g n := by
  unfold State.yield
  have e : (s.withCpu g n).others = s.others.withCpu g n := by
    unfold State.others
    have h : (s.withCpu g n).params = s.params := rfl
    rw [h]; split
    · rfl
    · exact withCpu_runOthers ..
  rw [e]
  generalize s.others = t
  unfold State.takeTurn
  have h : (t.withCpu g n).params = t.params := rfl
  have h' : (t.withCpu g n).turns = t.turns := rfl
  rw [h, h']; split <;> rfl

theorem withCpu_afterRead : (s.withCpu g n).afterRead = s.afterRead.withCpu g n := by
  unfold State.afterRead; rw [withCpu_yield]; rfl

theorem withCpu_afterWrite (a : Word) (v : Byte) :
    (s.withCpu g n).afterWrite a v = (s.afterWrite a v).withCpu g n := by
  unfold State.afterWrite; rw [withCpu_yield, withCpu_poke]

end

/-! ## The shared operations -/

theorem hi_eq (v : Word) : hi v = BitVec.ofNat 8 (v.toNat / 256) := by
  apply BitVec.eq_of_toNat_eq
  simp [hi, BitVec.extractLsb'_toNat, Nat.shiftRight_eq_div_pow]

theorem lo_eq (v : Word) : lo v = BitVec.ofNat 8 (v.toNat % 256) := by
  apply BitVec.eq_of_toNat_eq
  simp [lo, BitVec.extractLsb'_toNat]

theorem joined_toNat (h l : Byte) : (joined h l).toNat = h.toNat * 256 + l.toNat := by
  unfold joined
  rw [BitVec.toNat_append, Nat.shiftLeft_eq, Nat.mul_comm, ← Nat.two_pow_add_eq_or_of_lt l.isLt]

theorem joined_eq (h l : Byte) : joined h l = BitVec.ofNat 16 (h.toNat * 256 + l.toNat) := by
  apply BitVec.eq_of_toNat_eq
  rw [joined_toNat, BitVec.toNat_ofNat]
  have := h.isLt; have := l.isLt
  omega

theorem hi_joined (h l : Byte) : hi (joined h l) = h := by
  apply BitVec.eq_of_toNat_eq
  rw [hi_eq, joined_toNat, BitVec.toNat_ofNat]
  have := h.isLt; have := l.isLt
  omega

theorem lo_joined (h l : Byte) : lo (joined h l) = l := by
  apply BitVec.eq_of_toNat_eq
  rw [lo_eq, joined_toNat, BitVec.toNat_ofNat]
  have := h.isLt; have := l.isLt
  omega

theorem joined_hi_lo (v : Word) : joined (hi v) (lo v) = v := by
  apply BitVec.eq_of_toNat_eq
  rw [joined_toNat, hi_eq, lo_eq, BitVec.toNat_ofNat, BitVec.toNat_ofNat]
  have := v.isLt
  omega

/-- `Push16` (R170): the two writes, and `SP` two lower. -/
theorem push16_eq (s : State) (v : Word) :
    s.push16 v = (s.afterPush v).withCpu { s.regs with sp := s.regs.sp - 2 } s.cycles := by
  have e : s.regs.sp - 1 - 1 = s.regs.sp - 2 := by rw [BitVec.sub_sub]; rfl
  have h1 : s.setSp (s.regs.sp - 1) = s.withCpu { s.regs with sp := s.regs.sp - 1 } s.cycles := rfl
  simp only [State.push16, busWrite_eq, h1]
  rw [withCpu_afterWrite]
  have h2 : ∀ t : State, ∀ g n w, (t.withCpu g n).setSp w = t.withCpu { g with sp := w } n := fun _ _ _ _ => rfl
  have h3 : ∀ t : State, ∀ g n, (t.withCpu g n).regs = g := fun _ _ _ => rfl
  simp only [h2, h3, withCpu_afterWrite, e, hi_eq, lo_eq]
  rfl

/-- `Pop16` (R170): the two reads, and `SP` two higher. -/
theorem pop16_eq (s : State) :
    s.pop16 = (s.popped, s.afterRead.afterRead.withCpu { s.regs with sp := s.regs.sp + 2 } s.cycles) := by
  have e : s.regs.sp + 1 + 1 = s.regs.sp + 2 := by rw [BitVec.add_assoc]; rfl
  have h1 : s.afterRead.setSp (s.afterRead.regs.sp + 1)
      = s.afterRead.withCpu { s.regs with sp := s.regs.sp + 1 } s.cycles := by
    rw [State.afterRead_regs]
    have := s.afterRead_cycles
    rw [← this]
    unfold State.setSp
    rw [State.afterRead_regs]
    rfl
  simp only [State.pop16, busRead_eq, h1]
  rw [withCpu_afterRead, withCpu_yield, withCpu_peek, joined_eq]
  have h2 : ∀ t : State, ∀ g n w, (t.withCpu g n).setSp w = t.withCpu { g with sp := w } n := fun _ _ _ _ => rfl
  have h3 : ∀ t : State, ∀ g n, (t.withCpu g n).regs = g := fun _ _ _ => rfl
  simp only [h2, h3, e]
  rfl

/-! ## The end of an instruction, after each shared operation -/

/-- A plain instruction that leaves the registers `g` and touches nothing else. -/
theorem withCpu_advance (s : State) (g : Regs) (hp : g.pc = s.regs.pc) (len cost : Nat) :
    (s.withCpu g s.cycles).advance len cost = s.ended g len cost := by
  unfold State.advance State.ended State.setPc State.addCycles State.withCpu
  simp [hp]

/-- A store. -/
theorem busWrite_advance (s : State) (a : Word) (v : Byte) (len cost : Nat) :
    (s.busWrite a v).advance len cost = (s.afterWrite a v).ended s.regs len cost := by
  rw [← withCpu_advance (s.afterWrite a v) s.regs (by simp) len cost, busWrite_eq]
  congr 1
  conv => lhs; rw [← State.withCpu_self (s.afterWrite a v)]
  rw [State.afterWrite_regs]

/-- A push and a jump (R226, R232). -/
theorem push16_jump (s : State) (v t : Word) (c : Nat) :
    (s.push16 v).jump t c = (s.afterPush v).went { s.regs with sp := s.regs.sp - 2, pc := t } c := by
  rw [push16_eq]
  have e : (s.afterPush v).cycles = s.cycles := by simp [State.afterPush]
  unfold State.went
  rw [e]; rfl

/-- A pop of `pc` (R228). -/
theorem pop16_jump (s : State) (c : Nat) :
    s.pop16.2.jump s.pop16.1 c
      = s.afterRead.afterRead.went { s.regs with sp := s.regs.sp + 2, pc := s.popped } c := by
  rw [pop16_eq]
  have e : s.afterRead.afterRead.cycles = s.cycles := by simp
  unfold State.went
  rw [e]; rfl

/-- A result in `A` and the flags. -/
def Regs.putA (g : Regs) (r : Result) : Regs := { g with a := r.val, f := maskF r.f }

/-- An operation on `A` and the byte at `x[HL]` (R181). -/
theorem aluM_advance (s : State) (op : Byte → Byte → Result) (len cost : Nat) :
    (s.aluM op).advance len cost
      = s.afterRead.ended (s.regs.putA (op s.regs.a (s.yield.peek (s.regs.r16 .hl)))) len cost := by
  have e : s.aluM op
      = s.afterRead.withCpu (s.regs.putA (op s.regs.a (s.yield.peek (s.regs.r16 .hl)))) s.afterRead.cycles := by
    show s.afterRead.putA (op s.afterRead.regs.a _) = _
    unfold State.putA State.setF State.setR8
    rw [State.afterRead_regs]; rfl
  rw [e]; exact withCpu_advance _ _ (by simp [Regs.putA]) _ _

/-- A read, a write of the result and the flags (R72). -/
theorem modifyM_advance (s : State) (op : Byte → Result) (len cost : Nat) :
    let o := s.yield.peek (s.regs.r16 .hl)
    (s.modifyM op).advance len cost
      = (s.afterRead.afterWrite (s.regs.r16 .hl) (op o).val).ended { s.regs with f := maskF (op o).f } len cost := by
  intro o
  have h : s.modifyM op = (s.afterRead.afterWrite s.afterRead.hl (op o).val).setF (op o).f := rfl
  have h2 : s.afterRead.hl = s.regs.r16 .hl := by unfold State.hl; rw [State.afterRead_regs]
  rw [h, h2, ← withCpu_advance _ _ (by simp)]
  unfold State.setF
  rw [State.afterWrite_regs, State.afterRead_regs]; rfl

/-- A read and a write of the result, no flag touched. -/
theorem rewriteM_advance (s : State) (op : Byte → Byte) (len cost : Nat) :
    let o := s.yield.peek (s.regs.r16 .hl)
    (s.rewriteM op).advance len cost
      = (s.afterRead.afterWrite (s.regs.r16 .hl) (op o)).ended s.regs len cost := by
  intro o
  have h : s.rewriteM op = s.afterRead.busWrite s.afterRead.hl (op o) := rfl
  have h2 : s.afterRead.hl = s.regs.r16 .hl := by unfold State.hl; rw [State.afterRead_regs]
  rw [h, h2, busWrite_advance, State.afterRead_regs]

/-! ## Operands -/

theorem withWord_joined (op l h : Byte) : withWord op (h ++ l) = [op, l, h] := by
  have e1 : lo (h ++ l) = l := lo_joined h l
  have e2 : hi (h ++ l) = h := hi_joined h l
  simp [withWord, e1, e2]

theorem highPage_eq (o : Byte) : highPage o = 0xFF#8 ++ o := by
  apply BitVec.eq_of_toNat_eq
  have := o.isLt
  rw [show (0xFF#8 ++ o) = joined 0xFF o from rfl, joined_toNat]
  unfold highPage zext16
  rw [BitVec.toNat_or]
  have e : (0xFF00#16).toNat = 2^8 * 255 := rfl
  rw [e, BitVec.toNat_setWidth, Nat.mod_eq_of_lt (by omega : o.toNat < 2^16), ← Nat.two_pow_add_eq_or_of_lt o.isLt]
  rfl

/-- A signed displacement added to an address, as numbers. -/
theorem add_sext16_toNat (p : Word) (e : Byte) :
    ((p + sext16 e).toNat : Int) = ((p.toNat : Int) + signed e) % 65536 := by
  have he := e.isLt
  have hp := p.isLt
  have value : ∀ b : Byte, (sext16 b).toNat = if b.toNat < 128 then b.toNat else b.toNat + 65280 := by decide +kernel
  rw [BitVec.toNat_add, value]
  unfold signed
  split <;> omega

end Sys2Proof.Machine
end

