-- ==== Sys2Proof/Laws/Exec.lean ====
section
/-! SUPPORT. What an instruction can do, said once: it answers a next state, which is the state with a fatal fault
recorded, or the state after some bus actions with new registers and, for the few that touch them, a new gate or halt. -/

namespace Sys2Proof.Machine

/-! ## Bus actions of an instruction -/

/-- One bus action of the CPU. -/
inductive BusAct where
  | read
  | write (a : Word) (v : Byte)
  deriving DecidableEq, Repr

/-- The state after a bus action. -/
def State.act (s : State) : BusAct → State
  | .read => s.afterRead
  | .write a v => s.afterWrite a v

/-- The state after a list of bus actions. -/
def runBus (acts : List BusAct) (s : State) : State :=
  match acts with
  | [] => s
  | x :: r => runBus r (s.act x)

/-- The address a bus action stores to. -/
def BusAct.target : BusAct → Option Word
  | .read => none
  | .write a _ => some a

/-- The addresses stored to by a list of bus actions. -/
def targets (acts : List BusAct) : List Word := acts.filterMap BusAct.target

/-- `t` has the CPU-private state of `s`, and its parameters; draws apart. -/
structure SameCore (s t : State) : Prop where
  regs : t.regs = s.regs
  ime : t.ime = s.ime
  imeDelay : t.imeDelay = s.imeDelay
  halted : t.halted = s.halted
  cpuFault : t.cpuFault = s.cpuFault
  cpuPos : t.cpuPos = s.cpuPos
  cycles : t.cycles = s.cycles
  params : t.params = s.params

theorem sameCore_act (s : State) (x : BusAct) : SameCore s (s.act x) := by
  cases x <;> constructor <;> simp [State.act]

theorem sameCore_runBus (acts : List BusAct) (s : State) : SameCore s (runBus acts s) := by
  induction acts generalizing s with
  | nil => constructor <;> rfl
  | cons x r ih =>
    have h := sameCore_act s x
    have k := ih (s.act x)
    exact ⟨k.1.trans h.1, k.2.trans h.2, k.3.trans h.3, k.4.trans h.4, k.5.trans h.5, k.6.trans h.6, k.7.trans h.7,
      k.8.trans h.8⟩

/-! ## The effect -/

/-- What the interrupt gate and its countdown become (R271, R272, R231). -/
inductive Gate (i : Instr) (s : State) : Bool → Nat → Prop where
  | kept : Gate i s s.ime s.imeDelay
  | shut (h : i = .di) : Gate i s false 0
  | opened (h : i = .reti) : Gate i s true 0
  | counted (h : i = .ei) (hp : s.params.eiDelay = true) (hi : s.ime = false) (hd : s.imeDelay = 0) : Gate i s false 2
  | atOnce (h : i = .ei) (hp : s.params.eiDelay = false) : Gate i s true s.imeDelay

/-- The states an instruction leads to. -/
inductive Effect (i : Instr) (s : State) : State → Prop where
  | fault (e : CpuFault) : Effect i s (s.raiseFault e)
  | ran (acts : List BusAct) (g : Regs) (ime : Bool) (d : Nat) (halted : Bool)
      (stores : targets acts = storesOf i s)
      (low : s.regs.f &&& 0x0F = 0 → g.f &&& 0x0F = 0)
      (gate : Gate i s ime d)
      (halt : halted = s.halted ∨ i = .halt) :
      Effect i s { runBus acts s with
        regs := g, cycles := s.cycles + i.cost s.regs.f, ime := ime, imeDelay := d, halted := halted }

theorem Effect.ended {i : Instr} {s : State} (acts : List BusAct) (g : Regs) (len cost : Nat)
    (hc : i.cost s.regs.f = cost) (hs : targets acts = storesOf i s)
    (low : s.regs.f &&& 0x0F = 0 → g.f &&& 0x0F = 0) : Effect i s ((runBus acts s).ended g len cost) := by
  have h := sameCore_runBus acts s
  have e : (runBus acts s).ended g len cost = { runBus acts s with
      regs := { g with pc := (runBus acts s).regs.pc + BitVec.ofNat 16 len }, cycles := s.cycles + i.cost s.regs.f,
      ime := s.ime, imeDelay := s.imeDelay, halted := s.halted } := by
    unfold State.ended
    rw [hc, ← h.cycles, ← h.ime, ← h.imeDelay, ← h.halted]
  rw [e]
  exact .ran acts _ _ _ _ hs low .kept (.inl rfl)

theorem Effect.went {i : Instr} {s : State} (acts : List BusAct) (g : Regs) (cost : Nat)
    (hc : i.cost s.regs.f = cost) (hs : targets acts = storesOf i s)
    (low : s.regs.f &&& 0x0F = 0 → g.f &&& 0x0F = 0) : Effect i s ((runBus acts s).went g cost) := by
  have h := sameCore_runBus acts s
  have e : (runBus acts s).went g cost = { runBus acts s with
      regs := g, cycles := s.cycles + i.cost s.regs.f,
      ime := s.ime, imeDelay := s.imeDelay, halted := s.halted } := by
    unfold State.went
    rw [hc, ← h.cycles, ← h.ime, ← h.imeDelay, ← h.halted]
  rw [e]
  exact .ran acts _ _ _ _ hs low .kept (.inl rfl)

/-! ## Every instruction -/

@[simp] theorem maskF_low (v : Byte) : maskF v &&& 0x0F = 0 := by
  unfold maskF; rw [BitVec.and_assoc]; simp

theorem setR16_low (g : Regs) (rr : Reg16) (v : Word) (h : g.f &&& 0x0F = 0) : (g.setR16 rr v).f &&& 0x0F = 0 := by
  cases rr <;> first | exact h | exact maskF_low _

/-- An instruction answers a next state with an effect. -/
def Runs (i : Instr) (s : State) : Prop := ∃ t, exec i s = .next t ∧ Effect i s t

theorem Runs.of_eq {i : Instr} {s t t' : State} (h : exec i s = .next t) (e : t = t') (k : Effect i s t') : Runs i s :=
  ⟨t, h, e ▸ k⟩

/-- A plain register instruction. -/
theorem runs_plain {i : Instr} {s : State} (g : Regs) (len cost : Nat)
    (h : exec i s = .next ((s.withCpu g s.cycles).advance len cost)) (hp : g.pc = s.regs.pc)
    (hc : i.cost s.regs.f = cost) (hs : storesOf i s = []) (low : s.regs.f &&& 0x0F = 0 → g.f &&& 0x0F = 0) :
    Runs i s :=
  .of_eq h (withCpu_advance s g hp len cost) (.ended [] g len cost hc hs.symm low)

/-- An instruction that reads one byte. -/
theorem runs_read {i : Instr} {s : State} (g : Regs) (len cost : Nat)
    (h : exec i s = .next (s.afterRead.ended g len cost))
    (hc : i.cost s.regs.f = cost) (hs : storesOf i s = []) (low : s.regs.f &&& 0x0F = 0 → g.f &&& 0x0F = 0) :
    Runs i s :=
  ⟨_, h, .ended [.read] g len cost hc hs.symm low⟩

/-- An instruction that reads a byte into a register. -/
theorem read_setR8_advance (s : State) (r : Reg8) (v : Byte) (len cost : Nat) :
    (s.afterRead.setR8 r v).advance len cost = s.afterRead.ended (s.regs.setR8 r v) len cost := by
  have e : s.afterRead.setR8 r v = s.afterRead.withCpu (s.regs.setR8 r v) s.afterRead.cycles := by
    unfold State.setR8; rw [State.afterRead_regs]; rfl
  rw [e]; exact withCpu_advance _ _ (by simp) _ _

theorem read_setR8_setR16_advance (s : State) (v : Byte) (w : Word) (len cost : Nat) :
    ((s.afterRead.setR8 .a v).setR16 .hl w).advance len cost
      = s.afterRead.ended ({ s.regs with a := v }.setR16 .hl w) len cost := by
  have e : s.afterRead.setR8 .a v = s.afterRead.withCpu { s.regs with a := v } s.afterRead.cycles := by
    unfold State.setR8; rw [State.afterRead_regs]; rfl
  rw [e]; exact withCpu_advance s.afterRead ({ s.regs with a := v }.setR16 .hl w) (by simp) len cost

theorem read_setF_advance (s : State) (f : Byte) (len cost : Nat) :
    (s.afterRead.setF f).advance len cost = s.afterRead.ended { s.regs with f := maskF f } len cost := by
  have e : s.afterRead.setF f = s.afterRead.withCpu { s.regs with f := maskF f } s.afterRead.cycles := by
    unfold State.setF; rw [State.afterRead_regs]; rfl
  rw [e]; exact withCpu_advance _ _ (by simp) _ _

theorem write_setR16_advance (s : State) (a : Word) (v : Byte) (w : Word) (len cost : Nat) :
    ((s.busWrite a v).setR16 .hl w).advance len cost = (s.afterWrite a v).ended (s.regs.setR16 .hl w) len cost := by
  rw [← withCpu_advance (s.afterWrite a v) (s.regs.setR16 .hl w) (by simp) len cost, busWrite_eq]
  congr 1
  unfold State.setR16
  rw [State.afterWrite_regs]; rfl

/-- A store of one byte. -/
theorem runs_write {i : Instr} {s : State} (a : Word) (v : Byte) (len cost : Nat)
    (h : exec i s = .next ((s.busWrite a v).advance len cost))
    (hc : i.cost s.regs.f = cost) (hs : storesOf i s = [a]) : Runs i s :=
  .of_eq h (busWrite_advance ..) (.ended [.write a v] s.regs len cost hc hs.symm id)

theorem runs_writeHl {i : Instr} {s : State} (v : Byte) (w : Word)
    (h : exec i s = .next (((s.writeM v).setR16 .hl w).advance 1 2))
    (hc : i.cost s.regs.f = 2) (hs : storesOf i s = [s.regs.r16 .hl]) : Runs i s :=
  .of_eq h (write_setR16_advance ..) (.ended [.write (s.regs.r16 .hl) v] _ 1 2 hc hs.symm (fun h => h))

/-- An operation on `A` and the byte at `x[HL]`. -/
theorem runs_aluM {i : Instr} {s : State} (op : Byte → Byte → Result)
    (h : exec i s = .next ((s.aluM op).advance 1 2)) (hc : i.cost s.regs.f = 2) (hs : storesOf i s = []) : Runs i s :=
  .of_eq h (aluM_advance ..) (.ended [.read] _ 1 2 hc hs.symm (fun _ => maskF_low _))

/-- A read, a write and the flags. -/
theorem runs_modifyM {i : Instr} {s : State} (op : Byte → Result) (len cost : Nat)
    (h : exec i s = .next ((s.modifyM op).advance len cost)) (hc : i.cost s.regs.f = cost)
    (hs : storesOf i s = [s.regs.r16 .hl]) : Runs i s :=
  .of_eq h (modifyM_advance ..)
    (.ended [.read, .write (s.regs.r16 .hl) (op (s.yield.peek (s.regs.r16 .hl))).val] _ len cost hc hs.symm
      (fun _ => maskF_low _))

/-- A read and a write. -/
theorem runs_rewriteM {i : Instr} {s : State} (op : Byte → Byte) (len cost : Nat)
    (h : exec i s = .next ((s.rewriteM op).advance len cost)) (hc : i.cost s.regs.f = cost)
    (hs : storesOf i s = [s.regs.r16 .hl]) : Runs i s :=
  .of_eq h (rewriteM_advance ..)
    (.ended [.read, .write (s.regs.r16 .hl) (op (s.yield.peek (s.regs.r16 .hl)))] _ len cost hc hs.symm id)

/-- A push and a jump. -/
theorem runs_call {i : Instr} {s : State} (v t : Word) (c : Nat)
    (h : exec i s = .next ((s.push16 v).jump t c)) (hc : i.cost s.regs.f = c)
    (hs : storesOf i s = [s.regs.sp - 1, s.regs.sp - 2]) : Runs i s :=
  .of_eq h (push16_jump ..)
    (.went [.write (s.regs.sp - 1) (BitVec.ofNat 8 (v.toNat / 256)),
      .write (s.regs.sp - 2) (BitVec.ofNat 8 (v.toNat % 256))] _ c hc hs.symm (fun h => h))

/-- A pop of `pc`. -/
theorem runs_return {i : Instr} {s : State} (c : Nat)
    (h : exec i s = .next (s.pop16.2.jump s.pop16.1 c)) (hc : i.cost s.regs.f = c)
    (hs : storesOf i s = []) : Runs i s :=
  .of_eq h (pop16_jump ..) (.went [.read, .read] _ c hc hs.symm (fun h => h))

/-- A jump. -/
theorem runs_jump {i : Instr} {s : State} (t : Word) (c : Nat)
    (h : exec i s = .next (s.jump t c)) (hc : i.cost s.regs.f = c) (hs : storesOf i s = []) : Runs i s :=
  ⟨_, h, .went [] { s.regs with pc := t } c hc hs.symm (fun h => h)⟩

theorem runs_skip {i : Instr} {s : State} (len c : Nat)
    (h : exec i s = .next (s.advance len c)) (hc : i.cost s.regs.f = c) (hs : storesOf i s = []) : Runs i s :=
  runs_plain s.regs len c h rfl hc hs id

theorem runs_fault {i : Instr} {s : State} (e : CpuFault) (h : exec i s = .next (s.raiseFault e)) : Runs i s :=
  ⟨_, h, .fault e⟩

theorem runs_reti (s : State) : Runs .reti s := by
  have e : exec .reti s = .next { s.pop16.2.jump s.pop16.1 4 with ime := true, imeDelay := 0 } := rfl
  rw [pop16_jump] at e
  have h := sameCore_runBus [.read, .read] s
  refine ⟨_, e, ?_⟩
  have k : { s.afterRead.afterRead.went { s.regs with sp := s.regs.sp + 2, pc := s.popped } 4 with
      ime := true, imeDelay := 0 } = { runBus [.read, .read] s with
      regs := { s.regs with sp := s.regs.sp + 2, pc := s.popped }, cycles := s.cycles + Instr.cost s.regs.f .reti,
      ime := true, imeDelay := 0, halted := s.halted } := by
    unfold State.went
    rw [← h.cycles, ← h.halted]; rfl
  rw [k]
  exact .ran _ _ _ _ _ rfl (fun h => h) (.opened rfl) (.inl rfl)

theorem runs_ei (s : State) : Runs .ei s := by
  refine ⟨(s.enableInterrupts).advance 1 1, rfl, ?_⟩
  unfold State.enableInterrupts
  split
  · split
    · rename_i h k
      exact .ran [] { s.regs with pc := s.regs.pc + 1 } s.ime 2 s.halted rfl id
        (by rw [k.1]; exact .counted rfl h k.1 k.2) (.inl rfl)
    · exact .ran [] { s.regs with pc := s.regs.pc + 1 } s.ime s.imeDelay s.halted rfl id .kept (.inl rfl)
  · rename_i h
    exact .ran [] { s.regs with pc := s.regs.pc + 1 } true s.imeDelay s.halted rfl id
      (.atOnce rfl (by simpa using h)) (.inl rfl)

/-- Every instruction but the bare prefix answers a next state with an effect. -/
theorem exec_runs (i : Instr) (s : State) (hne : i ≠ .prefixCb) : Runs i s := by
  cases i
  case nop => exact runs_skip 1 1 rfl rfl rfl
  case ldA16Sp a =>
    refine .of_eq rfl (?_ : _ = ((s.afterWrite a (lo s.regs.sp)).afterWrite (a + 1) (hi s.regs.sp)).ended s.regs 3 5)
      (.ended [.write a (lo s.regs.sp), .write (a + 1) (hi s.regs.sp)] s.regs 3 5 rfl rfl id)
    have := busWrite_advance (s.afterWrite a (lo s.regs.sp)) (a + 1) (hi s.regs.sp) 3 5
    rw [State.afterWrite_regs] at this
    exact this
  case stop n => exact runs_fault _ rfl
  case jr e => exact runs_jump _ 3 rfl rfl rfl
  case jrCc cc e =>
    by_cases h : cc.holds s.regs.f = true
    · exact runs_jump (s.relative e) 3 (by show execJrCc cc e s = _; unfold execJrCc; rw [if_pos h])
        (if_pos h) rfl
    · exact runs_skip 2 2 (by show execJrCc cc e s = _; unfold execJrCc; rw [if_neg h]) (if_neg h) rfl
  case ldRrD16 rr d =>
    exact runs_plain (s.regs.setR16 rr d) 3 3 rfl (by simp) rfl rfl (setR16_low _ _ _)
  case addHlRr rr => exact runs_plain _ 1 2 rfl rfl rfl rfl (fun _ => maskF_low _)
  case ldBcA => exact runs_write _ _ 1 2 rfl rfl rfl
  case ldDeA => exact runs_write _ _ 1 2 rfl rfl rfl
  case ldHliA => exact runs_writeHl _ _ rfl rfl rfl
  case ldHldA => exact runs_writeHl _ _ rfl rfl rfl
  case ldABc => exact .of_eq rfl (read_setR8_advance ..) (.ended [.read] _ 1 2 rfl rfl (fun h => h))
  case ldADe => exact .of_eq rfl (read_setR8_advance ..) (.ended [.read] _ 1 2 rfl rfl (fun h => h))
  case ldAHli => exact .of_eq rfl (read_setR8_setR16_advance ..) (.ended [.read] _ 1 2 rfl rfl (fun h => h))
  case ldAHld => exact .of_eq rfl (read_setR8_setR16_advance ..) (.ended [.read] _ 1 2 rfl rfl (fun h => h))
  case incRr rr => exact runs_plain (s.regs.setR16 rr (s.r16 rr + 1)) 1 2 rfl (by simp) rfl rfl (setR16_low _ _ _)
  case decRr rr => exact runs_plain (s.regs.setR16 rr (s.r16 rr - 1)) 1 2 rfl (by simp) rfl rfl (setR16_low _ _ _)
  case incR r => exact runs_plain _ 1 1 rfl (by simp) rfl rfl (fun _ => maskF_low _)
  case incM => exact runs_modifyM _ 1 3 rfl rfl rfl
  case decR r => exact runs_plain _ 1 1 rfl (by simp) rfl rfl (fun _ => maskF_low _)
  case decM => exact runs_modifyM _ 1 3 rfl rfl rfl
  case ldRI r d => exact runs_plain (s.regs.setR8 r d) 2 2 rfl (by simp) rfl rfl (by simp)
  case ldMI d => exact runs_write _ _ 2 3 rfl rfl rfl
  case rlca => exact runs_plain _ 1 1 rfl rfl rfl rfl (fun _ => maskF_low _)
  case rrca => exact runs_plain _ 1 1 rfl rfl rfl rfl (fun _ => maskF_low _)
  case rla => exact runs_plain _ 1 1 rfl rfl rfl rfl (fun _ => maskF_low _)
  case rra => exact runs_plain _ 1 1 rfl rfl rfl rfl (fun _ => maskF_low _)
  case daa =>
    have h : exec .daa s = execDaa s := rfl
    unfold execDaa at h
    cases e : daaRow s.regs.a s.regs.f with
    | none => rw [e] at h; exact runs_fault _ h
    | some row => rw [e] at h; exact runs_plain _ 1 1 h rfl rfl rfl (fun _ => maskF_low _)
  case cpl => exact runs_plain _ 1 1 rfl rfl rfl rfl (fun _ => maskF_low _)
  case scf => exact runs_plain _ 1 1 rfl rfl rfl rfl (fun _ => maskF_low _)
  case ccf => exact runs_plain _ 1 1 rfl rfl rfl rfl (fun _ => maskF_low _)
  case ldRR dst src => exact runs_plain (s.regs.setR8 dst (s.r8 src)) 1 1 rfl (by simp) rfl rfl (by simp)
  case ldRM r => exact .of_eq rfl (read_setR8_advance ..) (.ended [.read] _ 1 2 rfl rfl (by simp))
  case ldMR r => exact runs_write _ _ 1 2 rfl rfl rfl
  case halt =>
    exact ⟨_, rfl, .ran [] { s.regs with pc := s.regs.pc + 1 } s.ime s.imeDelay true rfl id .kept (.inr rfl)⟩
  case addR r => exact runs_plain _ 1 1 rfl rfl rfl rfl (fun _ => maskF_low _)
  case addM => exact runs_aluM _ rfl rfl rfl
  case addI d => exact runs_plain _ 2 2 rfl rfl rfl rfl (fun _ => maskF_low _)
  case adcR r => exact runs_plain _ 1 1 rfl rfl rfl rfl (fun _ => maskF_low _)
  case adcM => exact runs_aluM _ rfl rfl rfl
  case adcI d => exact runs_plain _ 2 2 rfl rfl rfl rfl (fun _ => maskF_low _)
  case subR r => exact runs_plain _ 1 1 rfl rfl rfl rfl (fun _ => maskF_low _)
  case subM => exact runs_aluM _ rfl rfl rfl
  case subI d => exact runs_plain _ 2 2 rfl rfl rfl rfl (fun _ => maskF_low _)
  case sbcR r => exact runs_plain _ 1 1 rfl rfl rfl rfl (fun _ => maskF_low _)
  case sbcM => exact runs_aluM _ rfl rfl rfl
  case sbcI d => exact runs_plain _ 2 2 rfl rfl rfl rfl (fun _ => maskF_low _)
  case andR r => exact runs_plain _ 1 1 rfl rfl rfl rfl (fun _ => maskF_low _)
  case andM => exact runs_aluM _ rfl rfl rfl
  case andI d => exact runs_plain _ 2 2 rfl rfl rfl rfl (fun _ => maskF_low _)
  case xorR r => exact runs_plain _ 1 1 rfl rfl rfl rfl (fun _ => maskF_low _)
  case xorM => exact runs_aluM _ rfl rfl rfl
  case xorI d => exact runs_plain _ 2 2 rfl rfl rfl rfl (fun _ => maskF_low _)
  case orR r => exact runs_plain _ 1 1 rfl rfl rfl rfl (fun _ => maskF_low _)
  case orM => exact runs_aluM _ rfl rfl rfl
  case orI d => exact runs_plain _ 2 2 rfl rfl rfl rfl (fun _ => maskF_low _)
  case cpR r => exact runs_plain _ 1 1 rfl rfl rfl rfl (fun _ => maskF_low _)
  case cpM => exact .of_eq rfl (read_setF_advance ..) (.ended [.read] _ 1 2 rfl rfl (fun _ => maskF_low _))
  case cpI d => exact runs_plain _ 2 2 rfl rfl rfl rfl (fun _ => maskF_low _)
  case retCc cc =>
    by_cases h : cc.holds s.regs.f = true
    · exact runs_return 5 (by show execRetCc cc s = _; unfold execRetCc; rw [if_pos h]) (if_pos h) rfl
    · exact runs_skip 1 2 (by show execRetCc cc s = _; unfold execRetCc; rw [if_neg h]) (if_neg h) rfl
  case ldhA8A off => exact runs_write _ _ 2 3 rfl rfl rfl
  case addSpE8 e => exact runs_plain _ 2 4 rfl rfl rfl rfl (fun _ => maskF_low _)
  case ldhAA8 off => exact .of_eq rfl (read_setR8_advance ..) (.ended [.read] _ 2 3 rfl rfl (fun h => h))
  case ldHlSpE8 e => exact runs_plain _ 2 3 rfl rfl rfl rfl (fun _ => maskF_low _)
  case popRr rr =>
    refine .of_eq rfl (?_ : _ = s.afterRead.afterRead.ended
      ({ s.regs with sp := s.regs.sp + 2 }.setR16 rr s.popped) 1 3)
      (.ended [.read, .read] _ 1 3 rfl rfl (setR16_low { s.regs with sp := s.regs.sp + 2 } rr s.popped))
    show (s.pop16.2.setR16 rr s.pop16.1).advance 1 3 = _
    rw [pop16_eq]
    have e : s.afterRead.afterRead.cycles = s.cycles := by simp
    rw [← e]
    exact withCpu_advance s.afterRead.afterRead ({ s.regs with sp := s.regs.sp + 2 }.setR16 rr s.popped) (by simp) 1 3
  case ret => exact runs_return 4 rfl rfl rfl
  case reti => exact runs_reti s
  case jpHl => exact runs_jump _ 1 rfl rfl rfl
  case ldSpHl => exact runs_plain { s.regs with sp := s.hl } 1 2 rfl rfl rfl rfl (fun h => h)
  case jpCc cc a =>
    by_cases h : cc.holds s.regs.f = true
    · exact runs_jump a 4 (by show execJpCc cc a s = _; unfold execJpCc; rw [if_pos h]) (if_pos h) rfl
    · exact runs_skip 3 3 (by show execJpCc cc a s = _; unfold execJpCc; rw [if_neg h]) (if_neg h) rfl
  case ldCA => exact runs_write _ _ 1 2 rfl rfl rfl
  case ldA16A a => exact runs_write _ _ 3 4 rfl rfl rfl
  case ldAC => exact .of_eq rfl (read_setR8_advance ..) (.ended [.read] _ 1 2 rfl rfl (fun h => h))
  case ldAA16 a => exact .of_eq rfl (read_setR8_advance ..) (.ended [.read] _ 3 4 rfl rfl (fun h => h))
  case jp a => exact runs_jump _ 4 rfl rfl rfl
  case prefixCb => exact absurd rfl hne
  case di => exact ⟨_, rfl, .ran [] { s.regs with pc := s.regs.pc + 1 } false 0 s.halted rfl id (.shut rfl) (.inl rfl)⟩
  case ei => exact runs_ei s
  case callCc cc a =>
    by_cases h : cc.holds s.regs.f = true
    · exact runs_call (s.regs.pc + 3) a 6 (by show execCallCc cc a s = _; unfold execCallCc; rw [if_pos h]) (if_pos h)
        (if_pos (holds_eq cc s.regs.f ▸ h))
    · exact runs_skip 3 3 (by show execCallCc cc a s = _; unfold execCallCc; rw [if_neg h]) (if_neg h)
        (if_neg (holds_eq cc s.regs.f ▸ h))
  case pushRr rr =>
    refine .of_eq rfl (?_ : _ = (s.afterPush (s.r16 rr)).ended { s.regs with sp := s.regs.sp - 2 } 1 4)
      (.ended [.write (s.regs.sp - 1) (BitVec.ofNat 8 ((s.r16 rr).toNat / 256)),
        .write (s.regs.sp - 2) (BitVec.ofNat 8 ((s.r16 rr).toNat % 256))] _ 1 4 rfl rfl (fun h => h))
    show (s.push16 (s.r16 rr)).advance 1 4 = _
    rw [push16_eq]
    have e : (s.afterPush (s.r16 rr)).cycles = s.cycles := by simp [State.afterPush]
    rw [← e]
    exact withCpu_advance (s.afterPush (s.r16 rr)) _ (by simp [State.afterPush]) 1 4
  case call a => exact runs_call _ _ 6 rfl rfl rfl
  case rst t => exact runs_call _ _ 4 rfl rfl rfl
  case illegalD3 => exact runs_fault _ rfl
  case illegalDB => exact runs_fault _ rfl
  case illegalDD => exact runs_fault _ rfl
  case illegalE3 => exact runs_fault _ rfl
  case illegalE4 => exact runs_fault _ rfl
  case illegalEB => exact runs_fault _ rfl
  case illegalEC => exact runs_fault _ rfl
  case illegalED => exact runs_fault _ rfl
  case illegalF4 => exact runs_fault _ rfl
  case illegalFC => exact runs_fault _ rfl
  case illegalFD => exact runs_fault _ rfl
  case rlcR r => exact runs_plain _ 2 2 rfl (by simp) rfl rfl (fun _ => maskF_low _)
  case rlcM => exact runs_modifyM _ 2 4 rfl rfl rfl
  case rrcR r => exact runs_plain _ 2 2 rfl (by simp) rfl rfl (fun _ => maskF_low _)
  case rrcM => exact runs_modifyM _ 2 4 rfl rfl rfl
  case rlR r => exact runs_plain _ 2 2 rfl (by simp) rfl rfl (fun _ => maskF_low _)
  case rlM => exact runs_modifyM _ 2 4 rfl rfl rfl
  case rrR r => exact runs_plain _ 2 2 rfl (by simp) rfl rfl (fun _ => maskF_low _)
  case rrM => exact runs_modifyM _ 2 4 rfl rfl rfl
  case slaR r => exact runs_plain _ 2 2 rfl (by simp) rfl rfl (fun _ => maskF_low _)
  case slaM => exact runs_modifyM _ 2 4 rfl rfl rfl
  case sraR r => exact runs_plain _ 2 2 rfl (by simp) rfl rfl (fun _ => maskF_low _)
  case sraM => exact runs_modifyM _ 2 4 rfl rfl rfl
  case swapR r => exact runs_plain _ 2 2 rfl (by simp) rfl rfl (fun _ => maskF_low _)
  case swapM => exact runs_modifyM _ 2 4 rfl rfl rfl
  case srlR r => exact runs_plain _ 2 2 rfl (by simp) rfl rfl (fun _ => maskF_low _)
  case srlM => exact runs_modifyM _ 2 4 rfl rfl rfl
  case bitR b r => exact runs_plain _ 2 2 rfl rfl rfl rfl (fun _ => maskF_low _)
  case bitM b => exact .of_eq rfl (read_setF_advance ..) (.ended [.read] _ 2 3 rfl rfl (fun _ => maskF_low _))
  case resR b r => exact runs_plain (s.regs.setR8 r (resOp b (s.r8 r))) 2 2 rfl (by simp) rfl rfl (by simp)
  case resM b => exact runs_rewriteM _ 2 4 rfl rfl rfl
  case setR b r => exact runs_plain (s.regs.setR8 r (setOp b (s.r8 r))) 2 2 rfl (by simp) rfl rfl (by simp)
  case setM b => exact runs_rewriteM _ 2 4 rfl rfl rfl

/-! ## The prefix on its own (R275) -/

theorem runPrefixed_eq (op2 : Byte) (s : State) : runPrefixed op2 s = exec (prefixedInstr op2) s := by
  have h64 : op2.toNat / 64 = 0 ∨ op2.toNat / 64 = 1 ∨ op2.toNat / 64 = 2 ∨ op2.toNat / 64 = 3 := by
    have := op2.isLt; omega
  have h8 : ∀ n : Nat, n % 8 = 0 ∨ n % 8 = 1 ∨ n % 8 = 2 ∨ n % 8 = 3 ∨ n % 8 = 4 ∨ n % 8 = 5 ∨ n % 8 = 6 ∨ n % 8 = 7 := by
    intro n; omega
  unfold runPrefixed prefixedInstr
  rcases h64 with h | h | h | h <;> rw [h] <;>
    rcases h8 op2.toNat with g | g | g | g | g | g | g | g <;> rw [g] <;> try rfl
  all_goals (rcases h8 (op2.toNat / 8) with k | k | k | k | k | k | k | k <;> rw [k] <;> rfl)

theorem prefixedInstr_ne (op2 : Byte) : prefixedInstr op2 ≠ .prefixCb := by
  intro h
  unfold prefixedInstr rotR rotM at h
  dsimp only at h
  split at h <;> (try cases h)
  all_goals (split at h <;> cases h)

/-- The bare prefix raises the fault at the end of the address space, and elsewhere runs a prefixed instruction. -/
theorem exec_prefixCb (s : State) :
    (s.regs.pc = 0xFFFF ∧ exec .prefixCb s = .next (s.raiseFault (.decodeOutOfBounds s.regs.pc))) ∨
      (s.regs.pc ≠ 0xFFFF ∧
        exec .prefixCb s = exec (prefixedInstr (s.yield.peek (s.regs.pc + 1))) s.afterRead) := by
  have h : exec .prefixCb s = execPrefixCb s := rfl
  rw [h]; unfold execPrefixCb
  by_cases e : s.regs.pc = 0xFFFF
  · exact .inl ⟨e, if_pos e⟩
  · exact .inr ⟨e, (if_neg e).trans (runPrefixed_eq ..)⟩

/-- Every instruction answers a next state. -/
theorem exec_answers (i : Instr) (s : State) : ∃ t, exec i s = .next t := by
  by_cases hi : i = .prefixCb
  · subst hi
    rcases exec_prefixCb s with ⟨_, h⟩ | ⟨_, h⟩
    · exact ⟨_, h⟩
    · obtain ⟨t, ht, _⟩ := exec_runs _ s.afterRead (prefixedInstr_ne (s.yield.peek (s.regs.pc + 1)))
      exact ⟨t, h.trans ht⟩
  · obtain ⟨t, ht, _⟩ := exec_runs i s hi
    exact ⟨t, ht⟩

/-- The effect of the instruction behind an answer. -/
theorem effect_of_exec {i : Instr} {s t : State} (hi : i ≠ .prefixCb) (h : exec i s = .next t) : Effect i s t := by
  obtain ⟨u, hu, k⟩ := exec_runs i s hi
  rw [h] at hu
  cases hu
  exact k

end Sys2Proof.Machine
end

