-- ==== Sys2Proof/Laws/Frame.lean ====
section
/-! SUPPORT. The frame of the CPU's bus actions: the bounds of the regions, what a store of the CPU leaves alone, and
which reads it can change. With no other agent moving, `runBus` is these alone. -/

namespace Sys2Proof.Machine

/-! ## Regions -/

/-- The first address of a region and the first address past it (R62). -/
def Region.range : Region → Nat × Nat
  | .cartRom => (0, 0x8000)
  | .vram => (0x8000, 0xA000)
  | .cartRam => (0xA000, 0xC000)
  | .wram => (0xC000, 0xE000)
  | .wramAlias => (0xE000, 0xFE00)
  | .oam => (0xFE00, 0xFEA0)
  | .reserved => (0xFEA0, 0xFF00)
  | .io => (0xFF00, 0xFF80)
  | .hram => (0xFF80, 0xFFFF)
  | .ie => (0xFFFF, 0x10000)

/-- An address lies within the range of its region. -/
theorem region_range (a : Word) : (region a).range.1 ≤ a.toNat ∧ a.toNat < (region a).range.2 := by
  have := a.isLt
  unfold region
  repeat' split
  all_goals (simp only [Region.range]; omega)

/-- The same for a named region. -/
theorem range_of {a : Word} {r : Region} (h : region a = r) : r.range.1 ≤ a.toNat ∧ a.toNat < r.range.2 :=
  h ▸ region_range a

/-- The cartridge's regions are its windows (R64). -/
theorem isCart_of {a : Word} (h : region a = .cartRom ∨ region a = .cartRam) : isCart a = true := by
  unfold isCart
  simp only [Bool.or_eq_true, Bool.and_eq_true, decide_eq_true_eq]
  rcases h with h | h <;> have b := range_of h <;> simp only [Region.range] at b <;> omega

theorem ioName_addr {k : Nat} {n : IoName} (h : ioName k = some n) : n.addr = k := by
  have := List.find?_some h; simpa using this

/-- A cell of an undesignated I/O address. -/
theorem isCell_of_io (a : Word) (h : region a = .io) (hn : ioName a.toNat = none) : isCell a.toNat = true := by
  have := region_range a
  rw [h] at this
  simp only [Region.range] at this
  unfold isCell
  simp only [hn, Option.isNone_none, Bool.or_eq_true, Bool.and_eq_true, decide_eq_true_eq]
  simp; omega

/-- The storage behind an address of a plain region is a cell. -/
theorem isCell_storageKey (a : Word)
    (h : region a = .vram ∨ region a = .wram ∨ region a = .wramAlias ∨ region a = .oam ∨ region a = .hram) :
    isCell (storageKey a) = true := by
  have b := region_range a
  unfold storageKey isCell
  simp only [Bool.or_eq_true, Bool.and_eq_true, decide_eq_true_eq]
  rcases h with h | h | h | h | h <;> rw [h] at b ⊢ <;> simp only [Region.range] at b ⊢ <;> omega

/-- Every CPU store keeps the canonical form of the memory. -/
theorem wf_poke (s : State) (a : Word) (v : Byte) (h : Memory.wf s.mem = true) : Memory.wf (s.poke a v).mem = true := by
  have key := isCell_storageKey a
  unfold storageKey at key
  unfold State.poke
  split <;> rename_i hr <;> simp only [hr] at key
  · unfold State.cartWrite; split <;> exact h
  · unfold State.cartWrite; split <;> exact h
  · exact h
  · split
    · rename_i n _; cases n <;> exact h
    · rename_i hn
      split
      · exact wf_setCell _ _ _ (by decide) h
      · exact wf_setCell _ _ _ (isCell_of_io a hr hn) h
  · exact h
  all_goals exact wf_setCell _ _ _ (key (by simp)) h

/-! ## What a store of the CPU leaves alone -/

/-- `t` has the engines' state, the picture, the host's state and the parameters of `s`. -/
structure SameEngines (s t : State) : Prop where
  timer : t.timer = s.timer
  ppu : t.ppu = s.ppu
  framebuffer : t.framebuffer = s.framebuffer
  joypad : t.joypad = s.joypad
  stepMode : t.stepMode = s.stepMode
  hostPos : t.hostPos = s.hostPos
  params : t.params = s.params
  turns : t.turns = s.turns
  cpuParked : t.cpuParked = s.cpuParked
  cpuPos : t.cpuPos = s.cpuPos
  ly : t.io.ly = s.io.ly
  mode : t.io.mode = s.io.mode
  coincidence : t.io.coincidence = s.io.coincidence

/-- The bits 2 to 0 of `STAT` survive a CPU store (R42). -/
theorem stat_low (io : IoRegs) (v : Byte) :
    ∀ i, i < 3 → (((v &&& 0x78) ||| (io.get .stat &&& 0x07)).extractLsb' 0 7).getLsbD i = io.stat.getLsbD i := by
  intro i hi
  have : i = 0 ∨ i = 1 ∨ i = 2 := by omega
  rcases this with h|h|h <;> subst h <;> simp [IoRegs.get]

/-- A store to a designated register. -/
theorem SameEngines.pokeIo (s : State) (n : IoName) (v : Byte) : SameEngines s (s.pokeIo n v) := by
  cases n <;> try (constructor <;> rfl)
  constructor <;> try rfl
  · show (((v &&& 0x78) ||| (s.io.get .stat &&& 0x07)).extractLsb' 0 7).extractLsb' 0 2 = s.io.stat.extractLsb' 0 2
    apply BitVec.eq_of_getLsbD_eq
    intro i hi
    have := stat_low s.io v i (by omega)
    simp only [BitVec.getLsbD_extractLsb', Nat.zero_add, hi, decide_true, Bool.true_and] at this ⊢
    exact this
  · exact stat_low s.io v 2 (by omega)

/-- A store of the CPU. -/
theorem SameEngines.poke (s : State) (a : Word) (v : Byte) : SameEngines s (s.poke a v) := by
  unfold State.poke
  split <;> try (constructor <;> rfl)
  · unfold State.cartWrite; split <;> constructor <;> rfl
  · unfold State.cartWrite; split <;> constructor <;> rfl
  · split
    · exact SameEngines.pokeIo ..
    · split <;> constructor <;> rfl

theorem SameEngines.trans {s t u} (h : SameEngines s t) (k : SameEngines t u) : SameEngines s u := by
  cases h; cases k; constructor <;> simp [*]

theorem quiet_of_sameEngines {s t} (h : SameEngines s t) : t.quiet = s.quiet := by
  unfold State.quiet; rw [h.params, h.turns]

/-! ## Bus actions with no other agent moving -/

/-- A bus action with no other agent moving. -/
theorem quiet_act (s : State) (h : s.quiet = true) (x : BusAct) :
    s.act x = (match x with | .read => { s with draws := s.draws + 1 } | .write a v => s.poke a v) := by
  cases x
  · show { s.yield with draws := s.yield.draws + 1 } = _; rw [yield_of_quiet s h]
  · show s.yield.poke _ _ = _; rw [yield_of_quiet s h]

/-- Bus actions leave the engines, the picture and the host alone. -/
theorem SameEngines.runBus (acts : List BusAct) (s : State) (h : s.quiet = true) : SameEngines s (runBus acts s) := by
  induction acts generalizing s with
  | nil => constructor <;> rfl
  | cons x r ih =>
    have e : SameEngines s (s.act x) := by
      rw [quiet_act s h]; cases x
      · constructor <;> rfl
      · exact SameEngines.poke ..
    exact e.trans (ih _ ((quiet_of_sameEngines e).trans h))

/-- Only a store to `IF` fires the interrupt-received latch (R39). -/
theorem irqLatch_poke (s : State) (a : Word) (v : Byte) (h : a ≠ 0xFF0F) :
    (s.poke a v).irqLatch = s.irqLatch := by
  unfold State.poke
  split <;> try rfl
  · unfold State.cartWrite; split <;> rfl
  · unfold State.cartWrite; split <;> rfl
  · split
    · rename_i n hn
      cases n <;> try rfl
      exfalso
      have := List.find?_some hn
      simp [IoName.addr] at this
      apply h; apply BitVec.eq_of_toNat_eq; simp [← this]
    · split <;> rfl

/-- Only a store to `TAC` fires the timer-enable latch (R38). -/
theorem timerEnableLatch_poke (s : State) (a : Word) (v : Byte) (h : a ≠ 0xFF07) :
    (s.poke a v).timerEnableLatch = s.timerEnableLatch := by
  unfold State.poke
  split <;> try rfl
  · unfold State.cartWrite; split <;> rfl
  · unfold State.cartWrite; split <;> rfl
  · split
    · rename_i n hn
      cases n <;> try rfl
      exfalso
      have := List.find?_some hn
      simp [IoName.addr] at this
      apply h; apply BitVec.eq_of_toNat_eq; simp [← this]
    · split <;> rfl

theorem latches_runBus (acts : List BusAct) (s : State) (h : s.quiet = true) :
    ((∀ b ∈ targets acts, b ≠ 0xFF0F) → (runBus acts s).irqLatch = s.irqLatch) ∧
    ((∀ b ∈ targets acts, b ≠ 0xFF07) → (runBus acts s).timerEnableLatch = s.timerEnableLatch) := by
  induction acts generalizing s with
  | nil => exact ⟨fun _ => rfl, fun _ => rfl⟩
  | cons x r ih =>
    have e : SameEngines s (s.act x) := SameEngines.runBus [x] s h
    have q := (quiet_of_sameEngines e).trans h
    have ih := ih _ q
    cases x with
    | read =>
      have e2 : (s.act .read) = _ := quiet_act s h .read
      refine ⟨fun k => (ih.1 k).trans ?_, fun k => (ih.2 k).trans ?_⟩ <;> rw [e2]
    | write a v =>
      have e2 : (s.act (.write a v)) = _ := quiet_act s h (.write a v)
      refine ⟨fun k => (ih.1 (fun b hb => k b (List.mem_cons_of_mem _ hb))).trans ?_,
        fun k => (ih.2 (fun b hb => k b (List.mem_cons_of_mem _ hb))).trans ?_⟩ <;> rw [e2]
      · exact irqLatch_poke _ _ _ (k a (List.mem_cons_self ..))
      · exact timerEnableLatch_poke _ _ _ (k a (List.mem_cons_self ..))

/-! ## Which reads a store changes -/

theorem get_put_other (io : IoRegs) (n m : IoName) (v : Byte) (h : m ≠ n) : (io.put n v).get m = io.get m := by
  cases n <;> cases m <;> first | rfl | exact absurd rfl h

theorem p1_put_other (io : IoRegs) (n : IoName) (v : Byte) (h : n ≠ .p1) : (io.put n v).p1Sel = io.p1Sel := by
  cases n <;> first | rfl | exact absurd rfl h

theorem ie_put_other (io : IoRegs) (n : IoName) (v : Byte) (h : n ≠ .ie) : (io.put n v).ie = io.ie := by
  cases n <;> first | rfl | exact absurd rfl h

/-- What a read depends on: the cell, the parameters, the cartridge's history, a designated register, `IE`. -/
theorem stored_congr (s t : State) (a : Word) (hcell : s.cell (storageKey a) = t.cell (storageKey a))
    (hp : s.params = t.params) (hl : isCart a = true → s.cartLog = t.cartLog)
    (hio : ∀ n, region a = .io → ioName a.toNat = some n → s.ioImplemented n = t.ioImplemented n)
    (hie : region a = .ie → s.io.ie = t.io.ie) : s.stored a = t.stored a := by
  unfold State.stored
  unfold storageKey at hcell
  cases h : region a <;> simp only [h] at hcell hio hie ⊢ <;> try exact hcell
  · rw [hp, hcell, hl (isCart_of (.inl h))]
  · rw [hp, hl (isCart_of (.inr h))]
  · split
    · exact hio _ trivial (by assumption)
    · exact hcell
  · exact hie trivial

theorem pokeIo_io (s : State) (n : IoName) (v : Byte) :
    ∃ w, (s.pokeIo n v).io = s.io.put n w ∨ (s.pokeIo n v).io = s.io := by
  cases n <;> exact ⟨_, .inl rfl⟩

theorem ioImplemented_put_other (s t : State) (n m : IoName) (w : Byte) (h : t.io = s.io.put n w)
    (hj : t.joypad = s.joypad) (hm : m ≠ n) : t.ioImplemented m = s.ioImplemented m := by
  have e : t.io.get m = s.io.get m := by rw [h]; exact get_put_other _ _ _ _ hm
  unfold State.ioImplemented
  by_cases hp : m = .p1
  · subst hp
    simp only
    have : t.io.p1Sel = s.io.p1Sel := by rw [h]; exact p1_put_other _ _ _ (fun e => hm e.symm)
    rw [e]
    congr 1
    unfold State.keyLines
    rw [this, hj]
  · cases m <;> first | exact e | exact absurd rfl hp

/-- A store changes no read of another storage, the windows of a cartridge that is not the flat one apart. -/
theorem stored_poke (s : State) (a b : Word) (v : Byte) (hk : storageKey b ≠ storageKey a)
    (hc : s.params.cart = .flat ∨ isCart a = false ∨ isCart b = false) : (s.poke b v).stored a = s.stored a := by
  have eng := SameEngines.poke s b v
  have cellcase : ∀ w, (s.setCell (storageKey b) w).stored a = s.stored a := by
    intro w
    apply stored_congr
    · exact cell_setCell_other _ _ _ _ (fun e => hk e.symm)
    · rfl
    · intro _; rfl
    · intro n _ _; cases n <;> rfl
    · intro _; rfl
  have cartcase : isCart b = true → (s.cartWrite b v).stored a = s.stored a := by
    intro hb
    unfold State.cartWrite
    split
    · rfl
    · rename_i hx
      rcases hc with h | h | h
      · rw [h] at hx; cases hx
      · apply stored_congr
        · rfl
        · rfl
        · intro k; rw [h] at k; cases k
        · intro n _ _; cases n <;> rfl
        · intro _; rfl
      · rw [hb] at h; cases h
  unfold State.poke
  unfold storageKey at cellcase hk
  split <;> rename_i hr <;> simp only [hr] at cellcase hk <;> try exact cellcase v
  · exact cartcase (isCart_of (.inl hr))
  · exact cartcase (isCart_of (.inr hr))
  · rfl
  · have bounds := range_of hr
    simp only [Region.range] at bounds
    split
    · rename_i n hn
      have ha := ioName_addr hn
      obtain ⟨w, h | h⟩ := pokeIo_io s n v
      · apply stored_congr
        · cases n <;> rfl
        · cases n <;> rfl
        · intro _; cases n <;> rfl
        · intro m hr' hm
          refine ioImplemented_put_other s _ n m w h (by cases n <;> rfl) ?_
          intro e; subst e
          have := ioName_addr hm
          simp only [hr'] at hk
          omega
        · intro _; rw [h]; apply ie_put_other; intro e; subst e; simp [IoName.addr] at ha; omega
      · apply stored_congr
        · cases n <;> rfl
        · cases n <;> rfl
        · intro _; cases n <;> rfl
        · intro m hr' hm
          unfold State.ioImplemented State.keyLines; rw [h]; cases n <;> cases m <;> rfl
        · intro _; rw [h]
    · split
      · rename_i hh; rw [← hh.1]; exact cellcase 0
      · exact cellcase v
  · apply stored_congr
    · rfl
    · rfl
    · intro _; rfl
    · intro m hr' hm
      refine ioImplemented_put_other s _ .ie m v rfl rfl ?_
      intro e; subst e
      have := ioName_addr hm
      have := range_of hr'
      simp only [Region.range] at this
      simp only [IoName.addr] at *; omega
    · intro hr'
      exfalso
      simp only [hr'] at hk
      have ka := range_of hr'
      have kb := range_of hr
      simp only [Region.range] at ka kb
      omega

/-- The same for a list of bus actions. -/
theorem stored_runBus (acts : List BusAct) (s : State) (q : s.quiet = true) (a : Word)
    (hk : ∀ b ∈ targets acts, storageKey b ≠ storageKey a)
    (hc : s.params.cart = .flat ∨ isCart a = false ∨ ∀ b ∈ targets acts, isCart b = false) :
    (runBus acts s).stored a = s.stored a := by
  induction acts generalizing s with
  | nil => rfl
  | cons x r ih =>
    have e : SameEngines s (s.act x) := SameEngines.runBus [x] s q
    have q' := (quiet_of_sameEngines e).trans q
    cases x with
    | read =>
      have e2 : (s.act .read) = _ := quiet_act s q .read
      have := ih (s.act .read) q' hk (by rw [e.params]; exact hc)
      refine this.trans ?_
      rw [e2]; apply stored_congr <;> first | rfl | (intro _; rfl) | skip
      intro n _ _; cases n <;> rfl
    | write b v =>
      have e2 : (s.act (.write b v)) = _ := quiet_act s q (.write b v)
      have := ih (s.act (.write b v)) q' (fun c hc => hk c (List.mem_cons_of_mem _ hc)) (by
        rw [e.params]
        rcases hc with h | h | h
        · exact .inl h
        · exact .inr (.inl h)
        · exact .inr (.inr (fun c hc => h c (List.mem_cons_of_mem _ hc))))
      refine this.trans ?_
      rw [e2]
      apply stored_poke
      · exact hk b (List.mem_cons_self ..)
      · rcases hc with h | h | h
        · exact .inl h
        · exact .inr (.inl h)
        · exact .inr (.inr (h b (List.mem_cons_self ..)))

end Sys2Proof.Machine
end

