-- ==== Sys2Proof/Laws/Stable.lean ====
section
/-! SUPPORT. A property that every atomic action keeps is kept by everything built from them: whole turns, the
interleaving, the cycles of the reference schedule, bus actions and interrupt entry. Each induction is here once. -/

namespace Sys2Proof.Machine

/-- The bookkeeping of the schedule and the host: which turns are to come, the gate of the host, the keys. -/
structure Stable (P : State → Prop) : Prop where
  poke : ∀ s a v, P s → P (State.poke a v s)
  ppuMove : ∀ s, P s → P s.ppuMove
  timerMove : ∀ s, P s → P s.timerMove
  divCycle : ∀ s, P s → P s.divCycle
  raiseIf : ∀ s i, P s → P (State.raiseIf i s)
  fireIrq : ∀ s, P s → P s.fireIrq
  turns : ∀ s ts, P s → P { s with turns := ts }
  draws : ∀ s n, P s → P { s with draws := n }
  hostPos : ∀ s b, P s → P { s with hostPos := b }
  joypad : ∀ s j, P s → P { s with joypad := j }
  pause : ∀ s, P s → P { s with stepMode := true }
  resume : ∀ s, P s → P { s with stepMode := false, cpuParked := false, ppu := { s.ppu with parked := false },
                                 timer := { s.timer with parked := false } }
  parkPpu : ∀ s, P s → P s.parkPpu
  parkTimer : ∀ s, P s → P s.parkTimer
  dot : ∀ s n, P s → P { s with ppu := { s.ppu with dot := n } }

variable {P : State → Prop} (st : Stable P)
include st

namespace Stable

theorem ppuToHold (stop : Bool) (n : Nat) {s : State} (h : P s) : P (s.ppuToHold stop n) := by
  induction n generalizing s with
  | zero => exact h
  | succ n ih =>
    unfold State.ppuToHold; split
    · exact h
    · exact ih (st.ppuMove s h)

theorem ppuToBoundary (n : Nat) {s : State} (h : P s) : P (s.ppuToBoundary n) := by
  induction n generalizing s with
  | zero => exact h
  | succ n ih =>
    unfold State.ppuToBoundary; split
    · exact h
    · exact ih (st.ppuMove s h)

theorem ppuAction {s : State} (h : P s) : P s.ppuAction := by
  unfold State.ppuAction
  split
  · exact h
  · split
    · exact st.parkPpu s h
    · exact st.ppuMove s h

theorem ppuCycle (gate : Bool) {s : State} (h : P s) : P (s.ppuCycle gate) := by
  unfold State.ppuCycle
  split
  · exact h
  · have h1 := st.ppuToHold (gate && s.stepMode) ppuFuel h
    dsimp only
    split
    · exact st.parkPpu _ h1
    · split
      · have h2 := st.ppuToBoundary ppuFuel (st.ppuMove _ h1)
        split
        · exact st.parkPpu _ h2
        · exact st.ppuToHold false ppuFuel h2
      · exact st.dot _ _ h1

theorem ppuCycles (gate : Bool) (n : Nat) {s : State} (h : P s) : P (s.ppuCycles gate n) := by
  induction n generalizing s with
  | zero => exact h
  | succ n ih => exact ih (st.ppuCycle gate h)

theorem timerToRest (n : Nat) {s : State} (h : P s) : P (s.timerToRest n) := by
  induction n generalizing s with
  | zero => exact h
  | succ n ih =>
    unfold State.timerToRest; split
    · exact h
    · exact ih (st.timerMove s h)

theorem timerAction {s : State} (h : P s) : P s.timerAction := by
  unfold State.timerAction
  split
  · exact h
  · split
    · exact st.parkTimer s h
    · exact st.timerMove s h

theorem divAction {s : State} (h : P s) : P s.divAction := by
  unfold State.divAction; split
  · exact h
  · exact st.divCycle s h

theorem timerWake {s : State} (h : P s) : P s.timerWake := by
  unfold State.timerWake; split
  · exact st.timerMove _ (st.timerMove s h)
  · exact h

theorem timerTickCycle {s : State} (h : P s) : P s.timerTickCycle := by
  unfold State.timerTickCycle; split
  · exact st.timerToRest _ (st.timerMove s h)
  · exact h

theorem timerCycle (gate : Bool) {s : State} (h : P s) : P (s.timerCycle gate) := by
  unfold State.timerCycle
  split
  · exact h
  · have h1 := st.timerToRest timerFuel h
    dsimp only
    split
    · exact st.parkTimer _ h1
    · exact st.divCycle _ (st.timerTickCycle (st.timerWake h1))

theorem timerCycles (gate : Bool) (n : Nat) {s : State} (h : P s) : P (s.timerCycles gate n) := by
  induction n generalizing s with
  | zero => exact h
  | succ n ih => exact ih (st.timerCycle gate h)

theorem engineCycles (gate : Bool) (n : Nat) {s : State} (h : P s) : P (s.engineCycles gate n) :=
  st.ppuCycles gate n (st.timerCycles gate n h)

theorem hostProceed {s : State} (h : P s) : P s.hostProceed := by
  unfold State.hostProceed; split
  · exact h
  · exact st.hostPos _ _ (st.raiseIf _ _ h)
  · exact st.hostPos _ _ (st.fireIrq s h)

theorem hostFinish {s : State} (h : P s) : P s.hostFinish := st.hostProceed (st.hostProceed h)

theorem hostAction (a : HostAction) {s : State} (h : P s) : P (s.hostAction a) := by
  have h1 := st.hostFinish h
  cases a with
  | proceed => exact st.hostProceed h
  | pause => exact st.pause _ h1
  | resume => exact st.resume _ h1
  | key k down => exact st.hostPos _ _ (st.joypad _ (s.hostFinish.joypad.put k down) h1)
  | raiseSerial => exact st.hostPos _ _ (st.raiseIf _ _ h1)
  | writeTac v => exact st.poke s.hostFinish 0xFF07 v h1

theorem perform (t : Turn) {s : State} (h : P s) : P (s.perform t) := by
  cases t with
  | cpu => exact h
  | ppu => exact st.ppuAction h
  | timer => exact st.timerAction h
  | div => exact st.divAction h
  | host a => exact st.hostAction a h

theorem runOthers (ts : List Turn) {s : State} (h : P s) : P (s.runOthers ts) := by
  induction ts generalizing s with
  | nil => exact st.turns _ _ h
  | cons t r ih =>
    cases t with
    | cpu => exact st.turns _ _ h
    | ppu => exact ih (st.perform .ppu h)
    | timer => exact ih (st.perform .timer h)
    | div => exact ih (st.perform .div h)
    | host a => exact ih (st.perform (.host a) h)

theorem others {s : State} (h : P s) : P s.others := by
  unfold State.others; split
  · exact h
  · exact st.runOthers _ h

theorem yield {s : State} (h : P s) : P s.yield := by
  have h1 := st.others h
  unfold State.yield State.takeTurn
  split
  · exact st.turns _ _ h1
  · exact h1

theorem afterRead {s : State} (h : P s) : P s.afterRead := st.draws _ _ (st.yield h)

theorem afterWrite (a : Word) (v : Byte) {s : State} (h : P s) : P (s.afterWrite a v) := st.poke _ _ _ (st.yield h)

theorem runBus (acts : List BusAct) {s : State} (h : P s) : P (runBus acts s) := by
  induction acts generalizing s with
  | nil => exact h
  | cons x r ih =>
    cases x with
    | read => exact ih (st.afterRead h)
    | write a v => exact ih (st.afterWrite a v h)

theorem readCode (a : Word) (n : Nat) {s : State} (h : P s) : P (s.readCode a n).2 := by
  induction n generalizing s a with
  | zero => exact h
  | succ n ih => exact ih (a + 1) (st.afterRead h)

theorem hostInputs (ts : List Turn) {s : State} (h : P s) : P (s.hostInputs ts) := by
  induction ts generalizing s with
  | nil => exact st.turns _ _ h
  | cons t r ih =>
    cases t with
    | cpu => exact st.turns _ _ h
    | ppu => exact ih h
    | timer => exact ih h
    | div => exact ih h
    | host a => exact ih (st.hostAction a h)

theorem settle {s : State} (h : P s) : P s.settle := by
  unfold State.settle; dsimp only; split
  · exact st.hostFinish h
  · exact st.ppuToHold _ _ (st.hostFinish h)

end Stable

end Sys2Proof.Machine
end

