-- ==== Sys2Proof/Laws/Invariant.lean ====
section
/-! SUPPORT. The invariant in its three parts: what the engines and the Bus keep, what is the CPU's own, and the
parking. Each part by the actions that could break it. -/

namespace Sys2Proof.Machine

/-! ## The PPU's writes of `STAT` -/

theorem setMode_mode (s : State) (m : Byte) : (s.setMode m).io.mode = m.extractLsb' 0 2 := by
  show (BitVec.extractLsb' 0 7 ((s.io.stat.setWidth 8) ^^^ ((s.io.mode.setWidth 8 ^^^ m) &&& 0x03))).extractLsb' 0 2 = _
  apply BitVec.eq_of_getLsbD_eq
  intro i hi
  have : i = 0 ∨ i = 1 := by omega
  rcases this with h|h <;> subst h <;> simp [IoRegs.mode]

/-- The coincidence flag is none of `STAT.MODE`'s bits. -/
theorem setCoin_mode (s : State) (c : Bool) : (s.setCoincidence c).io.mode = s.io.mode := by
  unfold State.setCoincidence
  split
  · show (BitVec.extractLsb' 0 7 ((s.io.stat.setWidth 8) ||| 0x04)).extractLsb' 0 2 = s.io.stat.extractLsb' 0 2
    apply BitVec.eq_of_getLsbD_eq
    intro i hi
    have : i = 0 ∨ i = 1 := by omega
    rcases this with h|h <;> subst h <;> simp
  · show (BitVec.extractLsb' 0 7 ((s.io.stat.setWidth 8) &&& (~~~0x04#8))).extractLsb' 0 2 = s.io.stat.extractLsb' 0 2
    apply BitVec.eq_of_getLsbD_eq
    intro i hi
    have : i = 0 ∨ i = 1 := by omega
    rcases this with h|h <;> subst h <;> simp
theorem setCoin_eq (s : State) (c : Bool) : ∃ st, s.setCoincidence c = { s with io := { s.io with stat := st } } := by
  unfold State.setCoincidence
  split
  · exact ⟨_, rfl⟩
  · exact ⟨_, rfl⟩
/-! ## The part of the engines and the Bus -/

/-- The clauses of the invariant that the engines and the Bus keep. -/
structure EnginePart (s : State) : Prop where
  memory : Memory.wf s.mem = true
  timerDiv : s.timer.div < 256
  divCount : s.timer.divCount < 64
  objects : s.ppu.lineObjects.length ≤ 10
  lines : linesOk s.ppu.pos s.io.ly.toNat s.ppu.seenLy.toNat s.ppu.vblankLine s.ppu.windowLine
  modeFlag : modeOk s.ppu.pos s.io.mode
  composed : s.ppu.pos.composing = true → s.ppu.lineRegs.ly.toNat ≤ 143
  lineLength : s.ppu.pos = .pixelTransfer .write → s.ppu.line.length = 160
  pictureRising : rising s.framebuffer = true
  pictureLines : ∀ e ∈ s.framebuffer, e.1 < 144 ∧ e.2.length = 160

/-- `line_objects` has at most ten entries (R348). -/
theorem lineObjects_length (rd : Nat → Byte) (tall : Bool) (ly : Byte) : (lineObjects rd tall ly).length ≤ 10 := by
  have ins : ∀ o l, (insertObj o l).length = l.length + 1 := by
    intro o l; induction l with
    | nil => rfl
    | cons p r ih => unfold insertObj; split <;> simp [ih]
  have srt : ∀ l, (sortObjs l).length = l.length := by
    intro l; induction l with
    | nil => rfl
    | cons p r ih => simp [sortObjs, ins, ih]
  unfold lineObjects selectObjs
  rw [List.length_reverse, srt, List.length_take]
  omega

/-- One action of the PPU. -/
theorem eng_ppuMove (s : State) (h : EnginePart s) : EnginePart s.ppuMove := by
  obtain ⟨h1, h2, h3, h4, h5, h6, h7, h8, h9, h10⟩ := h
  unfold State.ppuMove
  cases hp : s.ppu.pos with
  | oamSearch p =>
    rw [hp] at h5 h6 h7 h8
    cases p with
    | start => exact ⟨h1, h2, h3, h4, h5, (setMode_mode s 2), nofun, nofun, h9, h10⟩
    | readStat =>
      simp only [State.oamAction]
      split <;> exact ⟨h1, h2, h3, h4, h5, h6, nofun, nofun, h9, h10⟩
    | raise => exact ⟨h1, h2, h3, h4, h5, h6, nofun, nofun, h9, h10⟩
    | fire => exact ⟨h1, h2, h3, h4, h5, h6, nofun, nofun, h9, h10⟩
    | readLcdc => exact ⟨h1, h2, h3, h4, h5, h6, nofun, nofun, h9, h10⟩
    | readLy => exact ⟨h1, h2, h3, h4, h5, h6, nofun, nofun, h9, h10⟩
    | snapshot => exact ⟨h1, h2, h3, lineObjects_length .., h5, h6, nofun, nofun, h9, h10⟩
    | hold => exact ⟨h1, h2, h3, h4, h5, trivial, nofun, nofun, h9, h10⟩
  | pixelTransfer p =>
    rw [hp] at h5 h6 h7 h8
    cases p with
    | start => exact ⟨h1, h2, h3, h4, h5, (setMode_mode s 3), nofun, nofun, h9, h10⟩
    | latch r =>
      cases r <;> first
       | exact ⟨h1, h2, h3, h4, h5, h6, fun _ => h5.1, nofun, h9, h10⟩
       | exact ⟨h1, h2, h3, h4, h5, h6, nofun, nofun, h9, h10⟩
    | vram => exact ⟨h1, h2, h3, h4, h5, h6, fun _ => h7 rfl, fun _ => by simp [State.xferAction,
        State.composeFromVram, State.ppuGo, composeLine], h9, h10⟩
    | write =>
      refine ⟨h1, h2, h3, h4, ?_, h6, nofun, nofun, rising_listSet _ _ _ h9, ?_⟩
      · show s.io.ly.toNat ≤ 143 ∧ (if windowDrawn s.ppu.lineRegs = true then _ else _) ≤ s.io.ly.toNat + 1
        have h5 : s.io.ly.toNat ≤ 143 ∧ s.ppu.windowLine ≤ s.io.ly.toNat := h5
        refine ⟨h5.1, ?_⟩
        split <;> omega
      · have key := listSet_all (fun e : Nat × List Shade => decide (e.1 < 144 ∧ e.2.length = 160))
          s.ppu.lineRegs.ly.toNat s.ppu.line s.framebuffer
          (by simp; exact ⟨by have := h7 rfl; omega, h8 rfl⟩)
          (by rw [List.all_eq_true]; intro x hx; simpa using h10 x hx)
        intro e he
        have := List.all_eq_true.1 key e he
        simpa using this
    | hold => exact ⟨h1, h2, h3, h4, h5, trivial, nofun, nofun, h9, h10⟩
  | hBlank p =>
    rw [hp] at h5 h6 h7 h8
    cases p with
    | start => exact ⟨h1, h2, h3, h4, h5, (setMode_mode s 0), nofun, nofun, h9, h10⟩
    | readStat => exact ⟨h1, h2, h3, h4, h5, h6, nofun, nofun, h9, h10⟩
    | readLy => exact ⟨h1, h2, h3, h4, h5, h6, nofun, nofun, h9, h10⟩
    | readLyc =>
      simp only [State.hBlankAction]
      split <;> exact ⟨h1, h2, h3, h4, h5, h6, nofun, nofun, h9, h10⟩
    | raise => exact ⟨h1, h2, h3, h4, h5, h6, nofun, nofun, h9, h10⟩
    | fire => exact ⟨h1, h2, h3, h4, h5, h6, nofun, nofun, h9, h10⟩
    | hold => exact ⟨h1, h2, h3, h4, h5, h6, nofun, nofun, h9, h10⟩
    | incLy =>
      refine ⟨h1, h2, h3, h4, ?_, h6, nofun, nofun, h9, h10⟩
      show (s.io.ly + 1).toNat ≤ 144 ∧ s.ppu.windowLine ≤ (s.io.ly + 1).toNat
      have h5 : s.io.ly.toNat ≤ 143 ∧ s.ppu.windowLine ≤ s.io.ly.toNat + 1 := h5
      rw [BitVec.toNat_add]; simp; omega
    | coinLy => exact ⟨h1, h2, h3, h4, ⟨h5.1, h5.2, rfl⟩, h6, nofun, nofun, h9, h10⟩
    | coinLyc => exact ⟨h1, h2, h3, h4, h5, h6, nofun, nofun, h9, h10⟩
    | coinSet =>
      simp only [State.hBlankAction]
      obtain ⟨w, hw⟩ := setCoin_eq s (s.ppu.seenLy == s.ppu.seenLyc)
      rw [hw]
      have h5 : s.io.ly.toNat ≤ 144 ∧ s.ppu.windowLine ≤ s.io.ly.toNat ∧ s.ppu.seenLy.toNat = s.io.ly.toNat := h5
      split
      · rename_i e
        have e : s.ppu.seenLy.toNat = 144 := by rw [beq_iff_eq] at e; rw [e]; rfl
        refine ⟨h1, h2, h3, h4, ?_, trivial, nofun, nofun, h9, h10⟩
        show s.io.ly.toNat = 144 ∧ s.ppu.windowLine ≤ 144
        omega
      · rename_i e
        have e : s.ppu.seenLy.toNat ≠ 144 := by
          intro k; apply e; rw [beq_iff_eq]; apply BitVec.eq_of_toNat_eq; rw [k]; rfl
        refine ⟨h1, h2, h3, h4, ?_, trivial, nofun, nofun, h9, h10⟩
        show s.io.ly.toNat ≤ 143 ∧ s.ppu.windowLine ≤ s.io.ly.toNat
        omega
  | vBlank p =>
    rw [hp] at h5 h6 h7 h8
    cases p with
    | start => exact ⟨h1, h2, h3, h4, h5, (setMode_mode s 1), nofun, nofun, h9, h10⟩
    | raise => exact ⟨h1, h2, h3, h4, h5, h6, nofun, nofun, h9, h10⟩
    | fire => exact ⟨h1, h2, h3, h4, h5, h6, nofun, nofun, h9, h10⟩
    | readStat =>
      simp only [State.vBlankAction]
      have h5 : s.io.ly.toNat = 144 ∧ s.ppu.windowLine ≤ 144 := h5
      split
      · exact ⟨h1, h2, h3, h4, h5, h6, nofun, nofun, h9, h10⟩
      · refine ⟨h1, h2, h3, h4, ⟨Nat.zero_le _, h5⟩, h6, nofun, nofun, h9, h10⟩
    | raiseStat => exact ⟨h1, h2, h3, h4, h5, h6, nofun, nofun, h9, h10⟩
    | fireStat =>
      have h5 : s.io.ly.toNat = 144 ∧ s.ppu.windowLine ≤ 144 := h5
      exact ⟨h1, h2, h3, h4, ⟨Nat.zero_le _, h5⟩, h6, nofun, nofun, h9, h10⟩
    | lineStart => exact ⟨h1, h2, h3, h4, h5, h6, nofun, nofun, h9, h10⟩
    | hold =>
      have h5 : s.ppu.vblankLine ≤ 9 ∧ s.io.ly.toNat = 144 + s.ppu.vblankLine ∧ s.ppu.windowLine ≤ 144 := h5
      refine ⟨h1, h2, h3, h4, ?_, h6, nofun, nofun, h9, h10⟩
      show 1 ≤ s.ppu.vblankLine + 1 ∧ s.ppu.vblankLine + 1 ≤ 10 ∧ s.io.ly.toNat = 143 + (s.ppu.vblankLine + 1) ∧
          s.ppu.windowLine ≤ 144
      omega
    | readLy => exact ⟨h1, h2, h3, h4, ⟨h5.1, h5.2.1, h5.2.2.1, h5.2.2.2, rfl⟩, h6, nofun, nofun, h9, h10⟩
    | stepLy =>
      have h5 : 1 ≤ s.ppu.vblankLine ∧ s.ppu.vblankLine ≤ 10 ∧ s.io.ly.toNat = 143 + s.ppu.vblankLine ∧
          s.ppu.windowLine ≤ 144 ∧ s.ppu.seenLy.toNat = s.io.ly.toNat := h5
      simp only [State.vBlankAction]
      split
      · rename_i e
        have e : s.ppu.seenLy.toNat = 153 := by rw [beq_iff_eq] at e; rw [e]; rfl
        refine ⟨h1, h2, h3, h4, ?_, h6, nofun, nofun, h9, h10⟩
        show 1 ≤ s.ppu.vblankLine ∧ s.ppu.vblankLine ≤ 10 ∧
            (0 = if s.ppu.vblankLine = 10 then 0 else 144 + s.ppu.vblankLine) ∧ s.ppu.windowLine ≤ 144
        refine ⟨h5.1, h5.2.1, ?_, h5.2.2.2.1⟩
        rw [if_pos]; omega
      · rename_i e
        have e : s.ppu.seenLy.toNat ≠ 153 := by
          intro k; apply e; rw [beq_iff_eq]; apply BitVec.eq_of_toNat_eq; rw [k]; rfl
        refine ⟨h1, h2, h3, h4, ?_, h6, nofun, nofun, h9, h10⟩
        show 1 ≤ s.ppu.vblankLine ∧ s.ppu.vblankLine ≤ 10 ∧
            ((s.io.ly + 1).toNat = if s.ppu.vblankLine = 10 then 0 else 144 + s.ppu.vblankLine) ∧
            s.ppu.windowLine ≤ 144
        refine ⟨h5.1, h5.2.1, ?_, h5.2.2.2.1⟩
        rw [if_neg (by omega), BitVec.toNat_add]; simp; omega
    | coinLy => exact ⟨h1, h2, h3, h4, h5, h6, nofun, nofun, h9, h10⟩
    | coinLyc => exact ⟨h1, h2, h3, h4, h5, h6, nofun, nofun, h9, h10⟩
    | coinSet =>
      have h5 : 1 ≤ s.ppu.vblankLine ∧ s.ppu.vblankLine ≤ 10 ∧
          (s.io.ly.toNat = if s.ppu.vblankLine = 10 then 0 else 144 + s.ppu.vblankLine) ∧ s.ppu.windowLine ≤ 144 := h5
      have hm := setCoin_mode s (s.ppu.seenLy == s.ppu.seenLyc)
      simp only [State.vBlankAction]
      obtain ⟨w, hw⟩ := setCoin_eq s (s.ppu.seenLy == s.ppu.seenLyc)
      rw [hw] at hm ⊢
      split
      · refine ⟨h1, h2, h3, h4, ?_, trivial, nofun, nofun, h9, h10⟩
        show s.io.ly.toNat ≤ 143 ∧ 0 ≤ _
        have := h5.2.2.1; rw [if_pos (by omega)] at this; omega
      · refine ⟨h1, h2, h3, h4, ?_, hm.trans h6, nofun, nofun, h9, h10⟩
        show s.ppu.vblankLine ≤ 9 ∧ s.io.ly.toNat = 144 + s.ppu.vblankLine ∧ s.ppu.windowLine ≤ 144
        have := h5.2.2.1; rw [if_neg (by omega)] at this; omega

theorem eng_io (s : State) (io : IoRegs) (h : EnginePart s) (hl : io.ly = s.io.ly) (hm : io.mode = s.io.mode)
    : EnginePart { s with io := io } := by
  obtain ⟨h1, h2, h3, h4, h5, h6, h7, h8, h9, h10⟩ := h
  exact ⟨h1, h2, h3, h4, by show linesOk _ io.ly.toNat _ _ _; rw [hl]; exact h5,
      by show modeOk _ io.mode; rw [hm]; exact h6, h7, h8, h9, h10⟩

theorem eng_poke (s : State) (a : Word) (v : Byte) (h : EnginePart s) : EnginePart (s.poke a v) := by
  have e := SameEngines.poke s a v
  have hm := wf_poke s a v h.1
  obtain ⟨h1, h2, h3, h4, h5, h6, h7, h8, h9, h10⟩ := h
  exact ⟨hm, (by rw [e.timer]; exact h2), (by rw [e.timer]; exact h3), (by rw [e.ppu]; exact h4),
    (by rw [e.ppu, e.ly]; exact h5), (by rw [e.ppu, e.mode]; exact h6), (by rw [e.ppu]; exact h7),
    (by rw [e.ppu]; exact h8), (by rw [e.framebuffer]; exact h9), (by rw [e.framebuffer]; exact h10)⟩

theorem timerPeriod_le (t : Byte) : timerPeriod t ≤ 256 := by unfold timerPeriod; split <;> decide

theorem eng_timerMove (s : State) (h : EnginePart s) : EnginePart s.timerMove := by
  obtain ⟨h1, h2, h3, h4, h5, h6, h7, h8, h9, h10⟩ := h
  unfold State.timerMove
  split
  · split <;> exact ⟨h1, h2, h3, h4, h5, h6, h7, h8, h9, h10⟩
  · split
    · exact ⟨h1, by show 0 < 256; decide, h3, h4, h5, h6, h7, h8, h9, h10⟩
    · exact ⟨h1, h2, h3, h4, h5, h6, h7, h8, h9, h10⟩
  · split
    · unfold State.timerTick
      split
      · exact ⟨h1, by show 0 < 256; decide, h3, h4, h5, h6, h7, h8, h9, h10⟩
      · rename_i hlt
        have := timerPeriod_le (s.ioLoad 0xFF07#16)
        exact ⟨h1, by show s.timer.div + 1 < 256; omega, h3, h4, h5, h6, h7, h8, h9, h10⟩
    · exact ⟨h1, h2, h3, h4, h5, h6, h7, h8, h9, h10⟩
  all_goals exact ⟨h1, h2, h3, h4, h5, h6, h7, h8, h9, h10⟩

theorem stable_eng : Stable EnginePart where
  poke := eng_poke
  ppuMove := eng_ppuMove
  timerMove := eng_timerMove
  divCycle := by
    intro s h
    obtain ⟨h1, h2, h3, h4, h5, h6, h7, h8, h9, h10⟩ := h
    unfold State.divCycle
    split
    · split
      · exact ⟨wf_setCell _ 0xFF04 _ (by decide) h1, h2, by show 0 < 64; decide, h4, h5, h6, h7, h8, h9, h10⟩
      · exact ⟨h1, h2, by show s.timer.divCount + 1 < 64; omega, h4, h5, h6, h7, h8, h9, h10⟩
    · exact ⟨h1, h2, h3, h4, h5, h6, h7, h8, h9, h10⟩
  raiseIf := fun s i h => eng_io s _ h rfl rfl
  fireIrq := fun s ⟨h1, h2, h3, h4, h5, h6, h7, h8, h9, h10⟩ => ⟨h1, h2, h3, h4, h5, h6, h7, h8, h9, h10⟩
  turns := fun s _ ⟨h1, h2, h3, h4, h5, h6, h7, h8, h9, h10⟩ => ⟨h1, h2, h3, h4, h5, h6, h7, h8, h9, h10⟩
  draws := fun s _ ⟨h1, h2, h3, h4, h5, h6, h7, h8, h9, h10⟩ => ⟨h1, h2, h3, h4, h5, h6, h7, h8, h9, h10⟩
  hostPos := fun s _ ⟨h1, h2, h3, h4, h5, h6, h7, h8, h9, h10⟩ => ⟨h1, h2, h3, h4, h5, h6, h7, h8, h9, h10⟩
  joypad := fun s _ ⟨h1, h2, h3, h4, h5, h6, h7, h8, h9, h10⟩ => ⟨h1, h2, h3, h4, h5, h6, h7, h8, h9, h10⟩
  pause := fun s ⟨h1, h2, h3, h4, h5, h6, h7, h8, h9, h10⟩ => ⟨h1, h2, h3, h4, h5, h6, h7, h8, h9, h10⟩
  resume := fun s ⟨h1, h2, h3, h4, h5, h6, h7, h8, h9, h10⟩ => ⟨h1, h2, h3, h4, h5, h6, h7, h8, h9, h10⟩
  parkPpu := fun s ⟨h1, h2, h3, h4, h5, h6, h7, h8, h9, h10⟩ => ⟨h1, h2, h3, h4, h5, h6, h7, h8, h9, h10⟩
  parkTimer := fun s ⟨h1, h2, h3, h4, h5, h6, h7, h8, h9, h10⟩ => ⟨h1, h2, h3, h4, h5, h6, h7, h8, h9, h10⟩
  dot := fun s _ ⟨h1, h2, h3, h4, h5, h6, h7, h8, h9, h10⟩ => ⟨h1, h2, h3, h4, h5, h6, h7, h8, h9, h10⟩

/-! ## The part of the CPU -/

/-- The first part says nothing of the CPU. -/
theorem eng_cpu (s t : State) (h : EnginePart s) (a : t.mem = s.mem) (b : t.timer = s.timer) (c : t.ppu = s.ppu)
    (d : t.io.ly = s.io.ly) (d' : t.io.mode = s.io.mode) (e : t.framebuffer = s.framebuffer) : EnginePart t := by
  obtain ⟨h1, h2, h3, h4, h5, h6, h7, h8, h9, h10⟩ := h
  exact ⟨(by rw [a]; exact h1), (by rw [b]; exact h2), (by rw [b]; exact h3), (by rw [c]; exact h4),
    (by rw [c, d]; exact h5), (by rw [c, d']; exact h6), (by rw [c]; exact h7), (by rw [c]; exact h8),
    (by rw [e]; exact h9), (by rw [e]; exact h10)⟩

/-- The clauses about the CPU's own state. -/
structure CpuPart (s : State) : Prop where
  flagsLow : s.regs.f &&& 0x0F = 0
  delayRange : s.imeDelay ≤ 2
  delayGate : s.imeDelay ≠ 0 → s.ime = false
  delayParam : s.params.eiDelay = false → s.imeDelay = 0

theorem cpu_same {s t : State} (h : CpuPart s) (k : SameCpu s t) : CpuPart t :=
  ⟨by rw [k.regs]; exact h.1, by rw [k.imeDelay]; exact h.2, by rw [k.imeDelay, k.ime]; exact h.3,
      by rw [k.imeDelay, k.params]; exact h.4⟩
theorem cpu_core {s t : State} (h : CpuPart s) (k : SameCore s t) : CpuPart t :=
  ⟨by rw [k.regs]; exact h.1, by rw [k.imeDelay]; exact h.2, by rw [k.imeDelay, k.ime]; exact h.3,
      by rw [k.imeDelay, k.params]; exact h.4⟩

/-! ## The parking -/

/-- A parked CPU stands before its decode (R408). -/
def Parked (s : State) : Prop := s.cpuParked = true → s.cpuPos = .decode

theorem poke_parked (s : State) (a : Word) (v : Byte)
    : (s.poke a v).cpuParked = s.cpuParked := (SameEngines.poke s a v).cpuParked
theorem ppuMove_parked (s : State) : s.ppuMove.cpuParked = s.cpuParked := by
  unfold State.ppuMove
  split
  · rename_i p _
    cases p <;> rfl
  · rename_i p _; cases p <;> rfl
  · rename_i p _
    cases p <;> simp only [State.hBlankAction] <;> try rfl
    obtain ⟨w, hw⟩ := setCoin_eq s (s.ppu.seenLy == s.ppu.seenLyc)
    rw [hw]; rfl
  · rename_i p _
    cases p <;> simp only [State.vBlankAction] <;> try rfl
    · split <;> rfl
    · split <;> rfl
    · obtain ⟨w, hw⟩ := setCoin_eq s (s.ppu.seenLy == s.ppu.seenLyc)
      rw [hw]; split <;> rfl
theorem timerMove_parked (s : State) : s.timerMove.cpuParked = s.cpuParked := by
  unfold State.timerMove
  split <;> try rfl
  · split <;> rfl
  · split <;> rfl
  · split
    · unfold State.timerTick; split <;> rfl
    · rfl

theorem stable_parked : Stable Parked where
  poke := fun s a v h k => by rw [poke_parked] at k; rw [State.poke_cpuPos]; exact h k
  ppuMove := fun s h k => by rw [ppuMove_parked] at k; rw [(sameCpu_ppuMove s).cpuPos]; exact h k
  timerMove := fun s h k => by rw [timerMove_parked] at k; rw [(sameCpu_timerMove s).cpuPos]; exact h k
  divCycle := fun s h => by
    unfold State.divCycle
    split
    · split <;> exact h
    · exact h
  raiseIf := fun _ _ h => h
  fireIrq := fun _ h => h
  turns := fun _ _ h => h
  draws := fun _ _ h => h
  hostPos := fun _ _ h => h
  joypad := fun _ _ h => h
  pause := fun _ h => h
  resume := fun _ _ => nofun
  parkPpu := fun _ h => h
  parkTimer := fun _ h => h
  dot := fun _ _ h => h

/-! ## The three parts together -/

/-- The invariant is its three parts. -/
theorem inv_iff (s : State) : Inv s ↔ EnginePart s ∧ CpuPart s ∧ Parked s :=
  ⟨fun ⟨a, b, c, d, e, f, g, h, i, j, k, l, m, n, o⟩ => ⟨⟨a, f, g, h, i, j, k, l, m, n⟩, ⟨b, c, d, e⟩, o⟩,
   fun ⟨⟨a, f, g, h, i, j, k, l, m, n⟩, ⟨b, c, d, e⟩, o⟩ => ⟨a, b, c, d, e, f, g, h, i, j, k, l, m, n, o⟩⟩


end Sys2Proof.Machine
end

