-- ==== Sys2Proof/Laws/PerInstr.lean ====
section
/-! SUPPORT. Laws of every instruction as syntax, one lemma per constructor. `FirstByteGivesLength`: the first byte of an
encoding decides the encoded length (R100), so a fetch knows how many bytes to read from the first alone. -/

namespace Sys2Proof.Laws.FirstByteGivesLength

open Sys2Proof

/-- The length the first byte of the encoding gives is the instruction's length. -/
def Statement (i : Instr) : Prop := (encode i).head?.map opLength = some i.len

theorem nop : Statement .nop := rfl
theorem ldA16Sp (a16 : Word) : Statement (.ldA16Sp a16) := rfl
theorem stop (second : Byte) : Statement (.stop second) := rfl
theorem jr (e8 : Byte) : Statement (.jr e8) := rfl
theorem jrCc (cc : Cond) (e8 : Byte) : Statement (.jrCc cc e8) := by cases cc <;> rfl
theorem ldRrD16 (rr : Reg16) (d16 : Word) : Statement (.ldRrD16 rr d16) := by cases rr <;> rfl
theorem addHlRr (rr : Reg16) : Statement (.addHlRr rr) := by cases rr <;> rfl
theorem ldBcA : Statement .ldBcA := rfl
theorem ldDeA : Statement .ldDeA := rfl
theorem ldHliA : Statement .ldHliA := rfl
theorem ldHldA : Statement .ldHldA := rfl
theorem ldABc : Statement .ldABc := rfl
theorem ldADe : Statement .ldADe := rfl
theorem ldAHli : Statement .ldAHli := rfl
theorem ldAHld : Statement .ldAHld := rfl
theorem incRr (rr : Reg16) : Statement (.incRr rr) := by cases rr <;> rfl
theorem decRr (rr : Reg16) : Statement (.decRr rr) := by cases rr <;> rfl
theorem incR (r : Reg8) : Statement (.incR r) := by cases r <;> rfl
theorem incM : Statement .incM := rfl
theorem decR (r : Reg8) : Statement (.decR r) := by cases r <;> rfl
theorem decM : Statement .decM := rfl
theorem ldRI (r : Reg8) (d8 : Byte) : Statement (.ldRI r d8) := by cases r <;> rfl
theorem ldMI (d8 : Byte) : Statement (.ldMI d8) := rfl
theorem rlca : Statement .rlca := rfl
theorem rrca : Statement .rrca := rfl
theorem rla : Statement .rla := rfl
theorem rra : Statement .rra := rfl
theorem daa : Statement .daa := rfl
theorem cpl : Statement .cpl := rfl
theorem scf : Statement .scf := rfl
theorem ccf : Statement .ccf := rfl
theorem ldRR (dst src : Reg8) : Statement (.ldRR dst src) := by cases dst <;> cases src <;> rfl
theorem ldRM (r : Reg8) : Statement (.ldRM r) := by cases r <;> rfl
theorem ldMR (r : Reg8) : Statement (.ldMR r) := by cases r <;> rfl
theorem halt : Statement .halt := rfl
theorem addR (r : Reg8) : Statement (.addR r) := by cases r <;> rfl
theorem addM : Statement .addM := rfl
theorem addI (d8 : Byte) : Statement (.addI d8) := rfl
theorem adcR (r : Reg8) : Statement (.adcR r) := by cases r <;> rfl
theorem adcM : Statement .adcM := rfl
theorem adcI (d8 : Byte) : Statement (.adcI d8) := rfl
theorem subR (r : Reg8) : Statement (.subR r) := by cases r <;> rfl
theorem subM : Statement .subM := rfl
theorem subI (d8 : Byte) : Statement (.subI d8) := rfl
theorem sbcR (r : Reg8) : Statement (.sbcR r) := by cases r <;> rfl
theorem sbcM : Statement .sbcM := rfl
theorem sbcI (d8 : Byte) : Statement (.sbcI d8) := rfl
theorem andR (r : Reg8) : Statement (.andR r) := by cases r <;> rfl
theorem andM : Statement .andM := rfl
theorem andI (d8 : Byte) : Statement (.andI d8) := rfl
theorem xorR (r : Reg8) : Statement (.xorR r) := by cases r <;> rfl
theorem xorM : Statement .xorM := rfl
theorem xorI (d8 : Byte) : Statement (.xorI d8) := rfl
theorem orR (r : Reg8) : Statement (.orR r) := by cases r <;> rfl
theorem orM : Statement .orM := rfl
theorem orI (d8 : Byte) : Statement (.orI d8) := rfl
theorem cpR (r : Reg8) : Statement (.cpR r) := by cases r <;> rfl
theorem cpM : Statement .cpM := rfl
theorem cpI (d8 : Byte) : Statement (.cpI d8) := rfl
theorem retCc (cc : Cond) : Statement (.retCc cc) := by cases cc <;> rfl
theorem ldhA8A (a8 : Byte) : Statement (.ldhA8A a8) := rfl
theorem addSpE8 (e8 : Byte) : Statement (.addSpE8 e8) := rfl
theorem ldhAA8 (a8 : Byte) : Statement (.ldhAA8 a8) := rfl
theorem ldHlSpE8 (e8 : Byte) : Statement (.ldHlSpE8 e8) := rfl
theorem popRr (rr : Reg16) : Statement (.popRr rr) := by cases rr <;> rfl
theorem ret : Statement .ret := rfl
theorem reti : Statement .reti := rfl
theorem jpHl : Statement .jpHl := rfl
theorem ldSpHl : Statement .ldSpHl := rfl
theorem jpCc (cc : Cond) (a16 : Word) : Statement (.jpCc cc a16) := by cases cc <;> rfl
theorem ldCA : Statement .ldCA := rfl
theorem ldA16A (a16 : Word) : Statement (.ldA16A a16) := rfl
theorem ldAC : Statement .ldAC := rfl
theorem ldAA16 (a16 : Word) : Statement (.ldAA16 a16) := rfl
theorem jp (a16 : Word) : Statement (.jp a16) := rfl
theorem prefixCb : Statement .prefixCb := rfl
theorem di : Statement .di := rfl
theorem ei : Statement .ei := rfl
theorem callCc (cc : Cond) (a16 : Word) : Statement (.callCc cc a16) := by cases cc <;> rfl
theorem pushRr (rr : Reg16) : Statement (.pushRr rr) := by cases rr <;> rfl
theorem call (a16 : Word) : Statement (.call a16) := rfl
theorem rst (t : Byte) : Statement (.rst t) := by
  have h : ∀ k, k < 256 → opLength (0xC7 ||| BitVec.ofNat 8 k) = 1 := by set_option maxRecDepth 4000 in decide
  have := h t.toNat t.isLt
  rw [BitVec.ofNat_toNat, BitVec.setWidth_eq] at this
  exact congrArg some this
theorem illegalD3 : Statement .illegalD3 := rfl
theorem illegalDB : Statement .illegalDB := rfl
theorem illegalDD : Statement .illegalDD := rfl
theorem illegalE3 : Statement .illegalE3 := rfl
theorem illegalE4 : Statement .illegalE4 := rfl
theorem illegalEB : Statement .illegalEB := rfl
theorem illegalEC : Statement .illegalEC := rfl
theorem illegalED : Statement .illegalED := rfl
theorem illegalF4 : Statement .illegalF4 := rfl
theorem illegalFC : Statement .illegalFC := rfl
theorem illegalFD : Statement .illegalFD := rfl
theorem rlcR (r : Reg8) : Statement (.rlcR r) := by cases r <;> rfl
theorem rlcM : Statement .rlcM := rfl
theorem rrcR (r : Reg8) : Statement (.rrcR r) := by cases r <;> rfl
theorem rrcM : Statement .rrcM := rfl
theorem rlR (r : Reg8) : Statement (.rlR r) := by cases r <;> rfl
theorem rlM : Statement .rlM := rfl
theorem rrR (r : Reg8) : Statement (.rrR r) := by cases r <;> rfl
theorem rrM : Statement .rrM := rfl
theorem slaR (r : Reg8) : Statement (.slaR r) := by cases r <;> rfl
theorem slaM : Statement .slaM := rfl
theorem sraR (r : Reg8) : Statement (.sraR r) := by cases r <;> rfl
theorem sraM : Statement .sraM := rfl
theorem swapR (r : Reg8) : Statement (.swapR r) := by cases r <;> rfl
theorem swapM : Statement .swapM := rfl
theorem srlR (r : Reg8) : Statement (.srlR r) := by cases r <;> rfl
theorem srlM : Statement .srlM := rfl
theorem bitR (b : BitVec 3) (r : Reg8) : Statement (.bitR b r) := rfl
theorem bitM (b : BitVec 3) : Statement (.bitM b) := rfl
theorem resR (b : BitVec 3) (r : Reg8) : Statement (.resR b r) := rfl
theorem resM (b : BitVec 3) : Statement (.resM b) := rfl
theorem setR (b : BitVec 3) (r : Reg8) : Statement (.setR b r) := rfl
theorem setM (b : BitVec 3) : Statement (.setM b) := rfl

end Sys2Proof.Laws.FirstByteGivesLength
end

