-- ==== Sys2Proof/Tests/Slice0.lean ====
section
/-! SUPPORT. Tests. Expected values are the vectors V<n> of spec/95_test_vectors.md, the encodings of
spec/30_encoding.md, or worked out by hand from the rule named. Last, for each claim with hypotheses, a state and
operands that meet them. -/

namespace Sys2Proof.Tests

-- One kernel check at a time: each has a thread of its own, and their stacks together pass the memory limit.
set_option Elab.async false

open Sys2Proof Sys2Proof.Machine

/-! ## Terms that no encoding stands for -/

theorem test_illformed_ldRrD16 : (Instr.ldRrD16 .af 0).wellFormed = false := by decide
theorem test_illformed_addHlRr : (Instr.addHlRr .af).wellFormed = false := by decide
theorem test_illformed_incRr : (Instr.incRr .af).wellFormed = false := by decide
theorem test_illformed_decRr : (Instr.decRr .af).wellFormed = false := by decide
theorem test_illformed_popRr : (Instr.popRr .sp).wellFormed = false := by decide
theorem test_illformed_pushRr : (Instr.pushRr .sp).wellFormed = false := by decide
theorem test_illformed_rst : (Instr.rst 0x2C).wellFormed = false := by decide
theorem test_wellformed_boundaries :
    (Instr.ldRrD16 .sp 0).wellFormed = true ∧ (Instr.pushRr .af).wellFormed = true ∧
      (Instr.rst 0x38).wellFormed = true := by decide

/-! ## Decoding: words written out bit by bit -/

/-- Each word decodes to the instruction beside it, and is its encoding. -/
def reads (rows : List (List Byte × Instr)) : Bool :=
  rows.all (fun r => decodeOne r.1 == some r.2 && encode r.2 == r.1)

/-- Words written out from R111, quadrant x = 0. -/
theorem test_decode_loads_and_jumps_of_quadrant0 :
    reads [
      ([0b00000000], .nop),
      ([0b00001000, 0b00110100, 0b10010010], .ldA16Sp 0x9234),
      ([0b00010000, 0b10110001], .stop 0xB1),
      ([0b00011000, 0b10110001], .jr 0xB1),
      ([0b00100000, 0b10110001], .jrCc .nz 0xB1),
      ([0b00000001, 0b00110100, 0b10010010], .ldRrD16 .bc 0x9234),
      ([0b00011001], .addHlRr .de),
      ([0b00000010], .ldBcA),
      ([0b00010010], .ldDeA),
      ([0b00100010], .ldHliA),
      ([0b00110010], .ldHldA),
      ([0b00001010], .ldABc),
      ([0b00011010], .ldADe),
      ([0b00101010], .ldAHli),
      ([0b00111010], .ldAHld)] = true := by decide

/-- Words written out from R111, quadrant x = 0. -/
theorem test_decode_arithmetic_of_quadrant0 :
    reads [
      ([0b00100011], .incRr .hl),
      ([0b00111011], .decRr .sp),
      ([0b00111100], .incR .a),
      ([0b00110100], .incM),
      ([0b00000101], .decR .b),
      ([0b00110101], .decM),
      ([0b00001110, 0b10110001], .ldRI .c 0xB1),
      ([0b00110110, 0b10110001], .ldMI 0xB1),
      ([0b00000111], .rlca),
      ([0b00001111], .rrca),
      ([0b00010111], .rla),
      ([0b00011111], .rra),
      ([0b00100111], .daa),
      ([0b00101111], .cpl),
      ([0b00110111], .scf),
      ([0b00111111], .ccf)] = true := by decide

/-- Words written out from R111, quadrant x = 1. -/
theorem test_decode_quadrant1 :
    reads [
      ([0b01010011], .ldRR .d .e),
      ([0b01100110], .ldRM .h),
      ([0b01110101], .ldMR .l),
      ([0b01110110], .halt)] = true := by decide

/-- Words written out from R107, R111. -/
theorem test_decode_sums :
    reads [
      ([0b10000111], .addR .a),
      ([0b10000110], .addM),
      ([0b11000110, 0b10110001], .addI 0xB1),
      ([0b10001000], .adcR .b),
      ([0b10001110], .adcM),
      ([0b11001110, 0b10110001], .adcI 0xB1),
      ([0b10010001], .subR .c),
      ([0b10010110], .subM),
      ([0b11010110, 0b10110001], .subI 0xB1),
      ([0b10011010], .sbcR .d),
      ([0b10011110], .sbcM),
      ([0b11011110, 0b10110001], .sbcI 0xB1)] = true := by decide

/-- Words written out from R107, R111. -/
theorem test_decode_logic_and_compares :
    reads [
      ([0b10100011], .andR .e),
      ([0b10100110], .andM),
      ([0b11100110, 0b10110001], .andI 0xB1),
      ([0b10101100], .xorR .h),
      ([0b10101110], .xorM),
      ([0b11101110, 0b10110001], .xorI 0xB1),
      ([0b10110101], .orR .l),
      ([0b10110110], .orM),
      ([0b11110110, 0b10110001], .orI 0xB1),
      ([0b10111111], .cpR .a),
      ([0b10111110], .cpM),
      ([0b11111110, 0b10110001], .cpI 0xB1)] = true := by decide

/-- Words written out from R111, quadrant x = 3. -/
theorem test_decode_quadrant3_first_half :
    reads [
      ([0b11001000], .retCc .z),
      ([0b11100000, 0b10110001], .ldhA8A 0xB1),
      ([0b11101000, 0b10110001], .addSpE8 0xB1),
      ([0b11110000, 0b10110001], .ldhAA8 0xB1),
      ([0b11111000, 0b10110001], .ldHlSpE8 0xB1),
      ([0b11000001], .popRr .bc),
      ([0b11001001], .ret),
      ([0b11011001], .reti),
      ([0b11101001], .jpHl),
      ([0b11111001], .ldSpHl),
      ([0b11010010, 0b00110100, 0b10010010], .jpCc .nc 0x9234),
      ([0b11100010], .ldCA),
      ([0b11101010, 0b00110100, 0b10010010], .ldA16A 0x9234),
      ([0b11110010], .ldAC)] = true := by decide

/-- Words written out from R111, quadrant x = 3. -/
theorem test_decode_quadrant3_second_half :
    reads [
      ([0b11111010, 0b00110100, 0b10010010], .ldAA16 0x9234),
      ([0b11000011, 0b00110100, 0b10010010], .jp 0x9234),
      ([0b11001011], .prefixCb),
      ([0b11110011], .di),
      ([0b11111011], .ei),
      ([0b11011100, 0b00110100, 0b10010010], .callCc .c 0x9234),
      ([0b11010101], .pushRr .de),
      ([0b11001101, 0b00110100, 0b10010010], .call 0x9234),
      ([0b11110111], .rst 0x30)] = true := by decide

/-- Words written out from R113. -/
theorem test_decode_undefined_opcodes :
    reads [
      ([0b11010011], .illegalD3),
      ([0b11011011], .illegalDB),
      ([0b11011101], .illegalDD),
      ([0b11100011], .illegalE3),
      ([0b11100100], .illegalE4),
      ([0b11101011], .illegalEB),
      ([0b11101100], .illegalEC),
      ([0b11101101], .illegalED),
      ([0b11110100], .illegalF4),
      ([0b11111100], .illegalFC),
      ([0b11111101], .illegalFD)] = true := by decide

/-- Words written out from R112, x = 0. -/
theorem test_decode_rotates_and_shifts :
    reads [
      ([0b11001011, 0b00000000], .rlcR .b),
      ([0b11001011, 0b00000110], .rlcM),
      ([0b11001011, 0b00001001], .rrcR .c),
      ([0b11001011, 0b00001110], .rrcM),
      ([0b11001011, 0b00010010], .rlR .d),
      ([0b11001011, 0b00010110], .rlM),
      ([0b11001011, 0b00011011], .rrR .e),
      ([0b11001011, 0b00011110], .rrM),
      ([0b11001011, 0b00100100], .slaR .h),
      ([0b11001011, 0b00100110], .slaM),
      ([0b11001011, 0b00101101], .sraR .l),
      ([0b11001011, 0b00101110], .sraM),
      ([0b11001011, 0b00110111], .swapR .a),
      ([0b11001011, 0b00110110], .swapM),
      ([0b11001011, 0b00111000], .srlR .b),
      ([0b11001011, 0b00111110], .srlM)] = true := by decide

/-- Words written out from R112, x = 1, 2, 3. -/
theorem test_decode_bit_operations :
    reads [
      ([0b11001011, 0b01101001], .bitR 5 .c),
      ([0b11001011, 0b01010110], .bitM 2),
      ([0b11001011, 0b10111010], .resR 7 .d),
      ([0b11001011, 0b10000110], .resM 0),
      ([0b11001011, 0b11011011], .setR 3 .e),
      ([0b11001011, 0b11110110], .setM 6)] = true := by decide

/-- The words of the opcode table: the second byte of a word is bits 15 to 8, but a word of format CB is written with
the prefix in the high byte (R115). -/
theorem test_table_words :
    decodeTableWord 24 0xC000CD = some (.call 0xC000) ∧ decodeTableWord 16 0xCB37 = some (.swapR .a) ∧
      decodeTableWord 8 0x76 = some .halt := by decide

/-! ## One step -/

/-- The registers of the vectors' default start state. -/
def bare : Regs :=
  { a := 0, f := 0, b := 0, c := 0, d := 0, e := 0, h := 0, l := 0, sp := 0xDFF0, pc := 0x0100 }

/-- A start state: registers, code at `pc`, and the bytes of memory that matter. -/
def start (g : Regs) (code : List Byte) (mem : Memory) : State :=
  State.placeBytes g.pc code
    { State.reset with regs := g, io := { IoRegs.reset with ifr := 0, obp0 := 0, obp1 := 0 }, mem := mem }

def after (s : State) : State :=
  match step s with
  | .next t => t
  | .fault _ => s
  | .refused _ => s

/-- The state after an instruction. -/
def ran (i : Instr) (s : State) : State :=
  match exec i s with
  | .next t => t
  | .fault _ => s
  | .refused _ => s

/-- After one step the registers are `g`, the instruction took `c` cycles, no fault was raised, and the bytes listed are
in memory. -/
def ends (s : State) (g : Regs) (c : Nat) (bytes : List (Word × Byte)) : Bool :=
  let t := after s
  t.regs == g && t.cycles == c && t.cpuFault == none && bytes.all (fun e => t.stored e.1 == e.2)

/-- V20, V5, V41, V42, V45. -/
theorem test_loads_of_registers :
    ends (start { bare with c := 0x7E } [0x41] []) { bare with b := 0x7E, c := 0x7E, pc := 0x0101 } 1 [] ∧
    ends (start { bare with b := 0x12 } [0x06, 0x99] []) { bare with b := 0x99, pc := 0x0102 } 2 [] ∧
    ends (start bare [0x01, 0x34, 0x12] []) { bare with b := 0x12, c := 0x34, pc := 0x0103 } 3 [] ∧
    ends (start bare [0x31, 0xFE, 0xFF] []) { bare with sp := 0xFFFE, pc := 0x0103 } 3 [] ∧
    ends (start { bare with h := 0xC8 } [0xF9] []) { bare with h := 0xC8, sp := 0xC800, pc := 0x0101 } 2 [] := by
  decide +kernel

/-- V22, V24, V28, V31, V33, V34, V36, V38, V39; `LD A,(DE)` by hand from R137. -/
theorem test_loads_from_memory :
    ends (start { bare with h := 0xFE, l := 0xA0 } [0x7E] [])
      { bare with a := 0xFF, h := 0xFE, l := 0xA0, pc := 0x0101 } 2 [] ∧
    ends (start { bare with h := 0xE1, l := 0x23 } [0x7E] [(0xC123, 0x77)])
      { bare with a := 0x77, h := 0xE1, l := 0x23, pc := 0x0101 } 2 [] ∧
    ends (start { bare with b := 0xC0, c := 0x10 } [0x0A] [(0xC010, 0x33)])
      { bare with a := 0x33, b := 0xC0, c := 0x10, pc := 0x0101 } 2 [] ∧
    ends (start { bare with d := 0xC0, e := 0x10 } [0x1A] [(0xC010, 0x33)])
      { bare with a := 0x33, d := 0xC0, e := 0x10, pc := 0x0101 } 2 [] ∧
    ends (start bare [0xFA, 0x34, 0x12] [(0x1234, 0xAB)]) { bare with a := 0xAB, pc := 0x0103 } 4 [] ∧
    ends (start bare [0xF0, 0x44] []) { bare with a := 0x00, pc := 0x0102 } 3 [] ∧
    ends (start bare [0xF0, 0x40] []) { bare with a := 0x91, pc := 0x0102 } 3 [] ∧
    ends (start { bare with c := 0x80 } [0xF2] [(0xFF80, 0xA5)])
      { bare with a := 0xA5, c := 0x80, pc := 0x0101 } 2 [] ∧
    ends (start bare [0x3A] [(0, 0xC3)]) { bare with a := 0xC3, h := 0xFF, l := 0xFF, pc := 0x0101 } 2 [] ∧
    ends (start { bare with h := 0xC0, l := 0xFF } [0x2A] [(0xC0FF, 0x11)])
      { bare with a := 0x11, h := 0xC1, pc := 0x0101 } 2 [] := by decide +kernel

/-- V21, V29, V30, V35, V37, V40, V43, V44; `LD (BC),A` and `LD (HL),r` by hand from R134 and R138. -/
theorem test_stores :
    ends (start { bare with h := 0xC0 } [0x36, 0x5A] []) { bare with h := 0xC0, pc := 0x0102 } 3 [(0xC000, 0x5A)] ∧
    ends (start { bare with h := 0xC0, e := 0x6B } [0x73] [])
      { bare with h := 0xC0, e := 0x6B, pc := 0x0101 } 2 [(0xC000, 0x6B)] ∧
    ends (start { bare with a := 0xFF, d := 0x80 } [0x12] [])
      { bare with a := 0xFF, d := 0x80, pc := 0x0101 } 2 [(0x8000, 0xFF)] ∧
    ends (start { bare with a := 0x3D, b := 0xC0 } [0x02] [])
      { bare with a := 0x3D, b := 0xC0, pc := 0x0101 } 2 [(0xC000, 0x3D)] ∧
    ends (start { bare with a := 0x9C } [0xEA, 0x00, 0xC0] []) { bare with a := 0x9C, pc := 0x0103 } 4
      [(0xC000, 0x9C)] ∧
    ends (start { bare with a := 0x5A, c := 0x80 } [0xE2] []) { bare with a := 0x5A, c := 0x80, pc := 0x0101 } 2
      [(0xFF80, 0x5A)] ∧
    ends (start { bare with a := 0x05, h := 0xFF, l := 0xFF } [0x22] []) { bare with a := 0x05, pc := 0x0101 } 2
      [(0xFFFF, 0x05)] ∧
    ends (start { bare with a := 0x22, h := 0xC1 } [0x32] [])
      { bare with a := 0x22, h := 0xC0, l := 0xFF, pc := 0x0101 } 2 [(0xC100, 0x22)] ∧
    ends (start { bare with sp := 0xFFF8 } [0x08, 0xFF, 0xC0] []) { bare with sp := 0xFFF8, pc := 0x0103 } 5
      [(0xC0FF, 0xF8), (0xC100, 0xFF)] ∧
    ends (start { bare with sp := 0x1234 } [0x08, 0xFF, 0xFF] [(0, 0x77)]) { bare with sp := 0x1234, pc := 0x0103 } 5
      [(0xFFFF, 0x34), (0, 0x77)] := by decide +kernel

/-- V23, V26, V27: the reserved window and the flat cartridge drop writes, and its RAM window reads `0xFF`. -/
theorem test_dropped_stores :
    ends (start { bare with a := 0x12, h := 0xFE, l := 0xFF } [0x77] [])
      { bare with a := 0x12, h := 0xFE, l := 0xFF, pc := 0x0101 } 2 [(0xFEFF, 0xFF)] ∧
    ends (start { bare with a := 0x55, h := 0x20 } [0x77] [(0x2000, 0x01)])
      { bare with a := 0x55, h := 0x20, pc := 0x0101 } 2 [(0x2000, 0x01)] ∧
    ends (start { bare with h := 0xA0 } [0x7E] []) { bare with a := 0xFF, h := 0xA0, pc := 0x0101 } 2 [] := by
  decide +kernel

/-- V32, V50 to V56: stores to registers with side effects. -/
theorem test_register_stores :
    (after (start { bare with a := 0xE4 } [0xE0, 0x47] [])).io.bgp = 0xE4 ∧
    (let s := start { bare with a := 0xFF } [0xE0, 0x41] []
     (after { s with io := { s.io with stat := 0b0000010 } }).io.stat = 0b1111010) ∧
    (after (start { bare with a := 0x55 } [0xE0, 0x44] [])).io.ly = 0 ∧
    (let t := after (start { bare with a := 0xFF } [0xE0, 0x0F] []); t.io.ifr = 0x1F ∧ t.irqLatch = true) ∧
    (let s := start bare [0xE0, 0x0F] []
     let t := after { s with io := { s.io with ifr := 0x1F } }; t.io.ifr = 0 ∧ t.irqLatch = false) ∧
    (let t := after (start { bare with a := 0x03 } [0xE0, 0x07] []); t.io.tac = 3 ∧ t.timerEnableLatch = false) ∧
    (let t := ran (.ldhA8A 0x07) (start { bare with a := 0xFD } [] []); t.io.tac = 5 ∧ t.timerEnableLatch = true) ∧
    (after (start { bare with a := 0xFF } [0xE0, 0x00] [])).io.p1Sel = 3 := by decide +kernel

/-- V46, V47, V48, V49. -/
theorem test_ldHlSpE8 :
    ends (start { bare with sp := 0xFFF8, f := 0xF0 } [0xF8, 0x02] [])
      { bare with sp := 0xFFF8, h := 0xFF, l := 0xFA, pc := 0x0102 } 3 [] ∧
    ends (start { bare with sp := 0x00FF } [0xF8, 0x01] [])
      { bare with sp := 0x00FF, h := 0x01, f := 0x30, pc := 0x0102 } 3 [] ∧
    ends (start { bare with sp := 0 } [0xF8, 0xFF] []) { bare with sp := 0, h := 0xFF, l := 0xFF, pc := 0x0102 } 3 [] ∧
    ends (start { bare with sp := 1 } [0xF8, 0xFF] []) { bare with sp := 1, f := 0x30, pc := 0x0102 } 3 [] := by
  decide +kernel

/-- V60, V62, V64. -/
theorem test_push :
    ends (start { bare with b := 0x12, c := 0x34, sp := 0xFFFE } [0xC5] [])
      { bare with b := 0x12, c := 0x34, sp := 0xFFFC, pc := 0x0101 } 4 [(0xFFFD, 0x12), (0xFFFC, 0x34)] ∧
    ends (start { bare with d := 0xAB, e := 0xCD, sp := 0x0001 } [0xD5] [(0, 0x77)])
      { bare with d := 0xAB, e := 0xCD, sp := 0xFFFF, pc := 0x0101 } 4 [(0, 0x77), (0xFFFF, 0xCD)] ∧
    ends (start { bare with a := 0x9C, f := 0x50, sp := 0xD002 } [0xF5] [])
      { bare with a := 0x9C, f := 0x50, sp := 0xD000, pc := 0x0101 } 4 [(0xD001, 0x9C), (0xD000, 0x50)] := by
  decide +kernel

/-- V61; V63 with `IE` = 0. -/
theorem test_pop :
    ends (start { bare with sp := 0xC000 } [0xF1] [(0xC000, 0xFF), (0xC001, 0x12)])
      { bare with a := 0x12, f := 0xF0, sp := 0xC002, pc := 0x0101 } 3 [] ∧
    ends (start { bare with sp := 0xFFFF } [0xE1] [(0, 0x77)])
      { bare with h := 0x77, sp := 0x0001, pc := 0x0101 } 3 [] := by decide +kernel

/-- `op d8` on `A` gives the result and the flags. -/
def alu (op a d f a' f' : Byte) : Bool :=
  ends (start { bare with a := a, f := f } [op, d] []) { bare with a := a', f := f', pc := 0x0102 } 2 []

/-- V1, V70, V72 to V76. -/
theorem test_add_adc :
    alu 0xC6 0x3A 0xC6 0x00 0x00 0xB0 ∧ alu 0xC6 0x0F 0x01 0x00 0x10 0x20 ∧ alu 0xC6 0xF0 0x10 0x00 0x00 0x90 ∧
    alu 0xCE 0xE1 0x0F 0x10 0xF1 0x20 ∧ alu 0xCE 0xFF 0xFF 0x10 0xFF 0x30 ∧ alu 0xCE 0x00 0xFF 0x10 0x00 0xB0 ∧
    alu 0xCE 0x0F 0x00 0x10 0x10 0x20 ∧ alu 0xCE 0x0F 0x00 0x00 0x0F 0x00 := by decide +kernel

/-- V1, V77, V79 to V82, V101 to V103. -/
theorem test_sub_sbc_cp :
    alu 0xD6 0x3E 0x0F 0x00 0x2F 0x60 ∧ alu 0xD6 0x00 0x00 0x00 0x00 0xC0 ∧ alu 0xD6 0x00 0x01 0x00 0xFF 0x70 ∧
    alu 0xDE 0x3B 0x2A 0x10 0x10 0x40 ∧ alu 0xDE 0x00 0xFF 0x10 0x00 0xF0 ∧ alu 0xDE 0x10 0x0F 0x10 0x00 0xE0 ∧
    alu 0xDE 0x00 0x00 0x10 0xFF 0x70 ∧ alu 0xFE 0x3C 0x2F 0x00 0x3C 0x60 ∧ alu 0xFE 0x3C 0x3C 0x00 0x3C 0xC0 ∧
    alu 0xFE 0x3C 0x40 0x00 0x3C 0x50 := by decide +kernel

/-- V85, V86, V88, V89, V100. -/
theorem test_and_xor_or :
    alu 0xE6 0x5A 0x3F 0x00 0x1A 0x20 ∧ alu 0xE6 0x5A 0x00 0x10 0x00 0xA0 ∧ alu 0xEE 0xFF 0x0F 0x00 0xF0 0x00 ∧
    alu 0xF6 0x5A 0x03 0xF0 0x5B 0x00 ∧ alu 0xF6 0x00 0x00 0x00 0x00 0x80 := by decide +kernel

/-- V71, V78, V83, V84, V87, V104: the register and memory forms; the source is also the destination. -/
theorem test_alu_forms :
    ends (start { bare with a := 0x80 } [0x87] []) { bare with f := 0x90, pc := 0x0101 } 1 [] ∧
    ends (start { bare with a := 0x5C } [0x97] []) { bare with f := 0xC0, pc := 0x0101 } 1 [] ∧
    ends (start { bare with a := 0x3B, f := 0x10 } [0x9F] []) { bare with a := 0xFF, f := 0x70, pc := 0x0101 } 1 [] ∧
    ends (start { bare with a := 0x77, f := 0xF0 } [0xAF] []) { bare with f := 0x80, pc := 0x0101 } 1 [] ∧
    ends (start { bare with h := 0xC0 } [0xBE] [(0xC000, 0x01)]) { bare with h := 0xC0, f := 0x70, pc := 0x0101 } 2
      [] := by decide +kernel

/-- V105 to V110. -/
theorem test_inc_dec :
    ends (start { bare with b := 0x0F, f := 0x10 } [0x04] []) { bare with b := 0x10, f := 0x30, pc := 0x0101 } 1 [] ∧
    ends (start { bare with a := 0xFF, f := 0x10 } [0x3C] []) { bare with f := 0xB0, pc := 0x0101 } 1 [] ∧
    ends (start { bare with h := 0xC0 } [0x34] [(0xC000, 0xFF)]) { bare with h := 0xC0, f := 0xA0, pc := 0x0101 } 3
      [(0xC000, 0x00)] ∧
    ends (start { bare with b := 0x01 } [0x05] []) { bare with f := 0xC0, pc := 0x0101 } 1 [] ∧
    ends (start { bare with c := 0x00, f := 0x10 } [0x0D] []) { bare with c := 0xFF, f := 0x70, pc := 0x0101 } 1 [] ∧
    ends (start { bare with h := 0xC0 } [0x35] [(0xC000, 0x10)]) { bare with h := 0xC0, f := 0x60, pc := 0x0101 } 3
      [(0xC000, 0x0F)] := by decide +kernel

/-- V111 to V114. -/
theorem test_cpl_scf_ccf :
    ends (start { bare with a := 0x35, f := 0x90 } [0x2F] []) { bare with a := 0xCA, f := 0xF0, pc := 0x0101 } 1 [] ∧
    ends (start { bare with f := 0xE0 } [0x37] []) { bare with f := 0x90, pc := 0x0101 } 1 [] ∧
    ends (start { bare with f := 0xF0 } [0x3F] []) { bare with f := 0x80, pc := 0x0101 } 1 [] ∧
    ends (start bare [0x3F] []) { bare with f := 0x10, pc := 0x0101 } 1 [] := by decide +kernel

/-- V4: one key of each row of the table, and the six misses. -/
theorem test_daa :
    ([(0x00, 0x00, 0x00, 0x80), (0x7D, 0x00, 0x83, 0x00), (0x13, 0x20, 0x19, 0x00), (0xA0, 0x00, 0x00, 0x90),
      (0x9A, 0x00, 0x00, 0x90), (0xA2, 0x20, 0x08, 0x10), (0x10, 0x10, 0x70, 0x10), (0x1B, 0x10, 0x81, 0x10),
      (0x32, 0x30, 0x98, 0x10), (0x99, 0x40, 0x99, 0x40), (0x2D, 0x60, 0x27, 0x40), (0xD3, 0x50, 0x73, 0x50),
      (0x66, 0x70, 0x00, 0xD0), (0x00, 0x80, 0x00, 0x80)] : List (Byte × Byte × Byte × Byte)).all (fun r =>
      ends (start { bare with a := r.1, f := r.2.1 } [0x27] []) { bare with a := r.2.2.1, f := r.2.2.2, pc := 0x0101 } 1
        []) ∧
    ([(0x04, 0x20), (0x0A, 0x40), (0x30, 0x10), (0x9A, 0x20), (0x05, 0x60), (0x60, 0x50)] : List (Byte × Byte)).all
      (fun r =>
        let t := after (start { bare with a := r.1, f := r.2, pc := 0x0300 } [0x27] [])
        t.cpuFault == some (.daaTableMiss 0x0300 r.1 r.2) && t.regs == { bare with a := r.1, f := r.2, pc := 0x0300 } &&
          t.cycles == 0) := by decide +kernel

/-- V120 to V123. -/
theorem test_add_hl :
    ends (start { bare with h := 0x8A, l := 0x23, b := 0x06, c := 0x05, f := 0x80 } [0x09] [])
      { bare with h := 0x90, l := 0x28, b := 0x06, c := 0x05, f := 0xA0, pc := 0x0101 } 2 [] ∧
    ends (start { bare with h := 0x8A, l := 0x23, f := 0x80 } [0x29] [])
      { bare with h := 0x14, l := 0x46, f := 0xB0, pc := 0x0101 } 2 [] ∧
    ends (start { bare with h := 0x0F, l := 0xFF, sp := 1 } [0x39] [])
      { bare with h := 0x10, l := 0x00, sp := 1, f := 0x20, pc := 0x0101 } 2 [] ∧
    ends (start { bare with h := 0xFF, l := 0xFF, e := 1, f := 0x40 } [0x19] [])
      { bare with e := 1, f := 0x30, pc := 0x0101 } 2 [] := by decide +kernel

/-- V124 to V128. -/
theorem test_add_sp :
    ends (start { bare with sp := 0xFFF8, f := 0xF0 } [0xE8, 0x02] []) { bare with sp := 0xFFFA, pc := 0x0102 } 4 [] ∧
    ends (start { bare with sp := 1 } [0xE8, 0xFF] []) { bare with sp := 0, f := 0x30, pc := 0x0102 } 4 [] ∧
    ends (start { bare with sp := 0 } [0xE8, 0xFF] []) { bare with sp := 0xFFFF, pc := 0x0102 } 4 [] ∧
    ends (start { bare with sp := 0xFFFF } [0xE8, 0x01] []) { bare with sp := 0, f := 0x30, pc := 0x0102 } 4 [] ∧
    ends (start { bare with sp := 0x0080 } [0xE8, 0x80] []) { bare with sp := 0, f := 0x10, pc := 0x0102 } 4 [] := by
  decide +kernel

/-- V129 to V132. -/
theorem test_inc_dec_pairs :
    ends (start { bare with b := 0xFF, c := 0xFF, f := 0xF0 } [0x03] []) { bare with f := 0xF0, pc := 0x0101 } 2 [] ∧
    ends (start { bare with sp := 0 } [0x3B] []) { bare with sp := 0xFFFF, pc := 0x0101 } 2 [] ∧
    ends (start { bare with l := 0xFF } [0x23] []) { bare with h := 1, pc := 0x0101 } 2 [] ∧
    ends (start { bare with d := 1 } [0x1B] []) { bare with e := 0xFF, pc := 0x0101 } 2 [] := by decide +kernel

/-- V6, V140, V142, V144, V145. -/
theorem test_jr :
    ends (start { bare with pc := 0x0200 } [0x18, 0xFE] []) { bare with pc := 0x0200 } 3 [] ∧
    ends (start { bare with pc := 0x0200 } [0x18, 0x80] []) { bare with pc := 0x0182 } 3 [] ∧
    ends (start { bare with pc := 0x0200, f := 0x80 } [0x20, 0x05] []) { bare with pc := 0x0202, f := 0x80 } 2 [] ∧
    ends (start { bare with pc := 0x0200 } [0x20, 0x05] []) { bare with pc := 0x0207 } 3 [] ∧
    ends (start { bare with pc := 0x0200, f := 0x10 } [0x38, 0x10] []) { bare with pc := 0x0212, f := 0x10 } 3 [] := by
  decide +kernel

/-- V146 to V150. -/
theorem test_jp :
    ends (start bare [0xC3, 0x50, 0x01] []) { bare with pc := 0x0150 } 4 [] ∧
    ends (start bare [0xCA, 0x00, 0x80] []) { bare with pc := 0x0103 } 3 [] ∧
    ends (start { bare with f := 0x80 } [0xCA, 0x00, 0x80] []) { bare with f := 0x80, pc := 0x8000 } 4 [] ∧
    ends (start bare [0xD2, 0x00, 0x80] []) { bare with pc := 0x8000 } 4 [] ∧
    ends (start { bare with h := 0xC1, l := 0x23 } [0xE9] [])
      { bare with h := 0xC1, l := 0x23, pc := 0xC123 } 1 [] := by decide +kernel

/-- V151, V152, V153, V158. -/
theorem test_call_rst :
    ends (start { bare with sp := 0xFFFE, pc := 0x0150 } [0xCD, 0x00, 0x20] [])
      { bare with sp := 0xFFFC, pc := 0x2000 } 6 [(0xFFFD, 0x01), (0xFFFC, 0x53)] ∧
    ends (start { bare with f := 0x80, sp := 0xFFFE, pc := 0x0150 } [0xC4, 0x00, 0x20] [])
      { bare with f := 0x80, sp := 0xFFFE, pc := 0x0153 } 3 [] ∧
    ends (start { bare with f := 0x10, sp := 0xFFFE, pc := 0x0150 } [0xDC, 0x00, 0x20] [])
      { bare with f := 0x10, sp := 0xFFFC, pc := 0x2000 } 6 [(0xFFFD, 0x01), (0xFFFC, 0x53)] ∧
    ends (start { bare with sp := 0xFFFE, pc := 0x0150 } [0xEF] [])
      { bare with sp := 0xFFFC, pc := 0x0028 } 4 [(0xFFFD, 0x01), (0xFFFC, 0x51)] := by decide +kernel

/-- V154, V155, V156, V157. -/
theorem test_ret :
    ends (start { bare with sp := 0xFFFC } [0xC9] [(0xFFFC, 0x53), (0xFFFD, 0x01)])
      { bare with sp := 0xFFFE, pc := 0x0153 } 4 [] ∧
    ends (start { bare with sp := 0xFFFC, f := 0x80 } [0xC8] [(0xFFFC, 0x53), (0xFFFD, 0x01)])
      { bare with sp := 0xFFFE, f := 0x80, pc := 0x0153 } 5 [] ∧
    ends (start { bare with sp := 0xFFFC } [0xC8] [(0xFFFC, 0x53), (0xFFFD, 0x01)])
      { bare with sp := 0xFFFC, pc := 0x0101 } 2 [] ∧
    (let s := start { bare with sp := 0xFFFC } [0xD9] [(0xFFFC, 0x53), (0xFFFD, 0x01)]
     ends s { bare with sp := 0xFFFE, pc := 0x0153 } 4 [] ∧ (after s).ime = true) := by decide +kernel

/-- V159: a jump into the reserved window executes restarts. -/
theorem test_rst_from_reserved_window :
    ends { start bare [] [] with regs := { bare with sp := 0xD000, pc := 0xFEA0 } }
      { bare with sp := 0xCFFE, pc := 0x0038 } 4 [(0xCFFF, 0xFE), (0xCFFE, 0xA1)] := by decide +kernel

/-- V170 to V176. -/
theorem test_accumulator_rotates :
    ([(0x07, 0x85, 0x00, 0x0B, 0x10), (0x07, 0x00, 0xF0, 0x00, 0x00), (0x0F, 0x3B, 0x00, 0x9D, 0x10),
      (0x17, 0x95, 0x10, 0x2B, 0x10), (0x17, 0x80, 0x00, 0x00, 0x10), (0x1F, 0x81, 0x00, 0x40, 0x10),
      (0x1F, 0x01, 0x00, 0x00, 0x10)] : List (Byte × Byte × Byte × Byte × Byte)).all (fun r =>
      ends (start { bare with a := r.2.1, f := r.2.2.1 } [r.1] [])
        { bare with a := r.2.2.2.1, f := r.2.2.2.2, pc := 0x0101 } 1 []) := by decide +kernel

/-- V181, V182, V186 to V189, V191, V192 and, on `A`, V177, V179, V184. -/
theorem test_rotates_and_shifts :
    ([(0x07, 0x85, 0x00, 0x0B, 0x10), (0x0F, 0x01, 0x00, 0x80, 0x10), (0x17, 0x80, 0x00, 0x00, 0x90),
      (0x1F, 0x01, 0x00, 0x00, 0x90), (0x27, 0xFF, 0x00, 0xFE, 0x10), (0x2F, 0x8A, 0x00, 0xC5, 0x00),
      (0x2F, 0x01, 0x00, 0x00, 0x90), (0x37, 0xF0, 0x10, 0x0F, 0x00), (0x37, 0x00, 0x10, 0x00, 0x80),
      (0x3F, 0xFF, 0x00, 0x7F, 0x10), (0x3F, 0x01, 0x00, 0x00, 0x90)] : List (Byte × Byte × Byte × Byte × Byte)).all
      (fun r => ends (start { bare with a := r.2.1, f := r.2.2.1 } [0xCB, r.1] [])
        { bare with a := r.2.2.2.1, f := r.2.2.2.2, pc := 0x0102 } 2 []) := by decide +kernel

/-- V183, V190; the other six on the byte `0x8A` by hand from R245 to R252. -/
theorem test_rotates_and_shifts_of_memory :
    ([(0x06, 0x8A, 0x15, 0x10), (0x0E, 0x8A, 0x45, 0x00), (0x16, 0x8A, 0x14, 0x10), (0x1E, 0x8A, 0x45, 0x00),
      (0x26, 0x8A, 0x14, 0x10), (0x2E, 0x8A, 0xC5, 0x00), (0x36, 0x12, 0x21, 0x00), (0x3E, 0x8A, 0x45, 0x00)] :
      List (Byte × Byte × Byte × Byte)).all (fun r =>
      ends (start { bare with h := 0xC0 } [0xCB, r.1] [(0xC000, r.2.1)])
        { bare with h := 0xC0, f := r.2.2.2, pc := 0x0102 } 4 [(0xC000, r.2.2.1)]) := by decide +kernel

/-- V200, V201, V204, V206. -/
theorem test_bits_of_registers :
    ends (start { bare with a := 0x80, f := 0x10 } [0xCB, 0x7F] []) { bare with a := 0x80, f := 0x30, pc := 0x0102 } 2
      [] ∧
    ends (start { bare with a := 0x80, f := 0x10 } [0xCB, 0x47] []) { bare with a := 0x80, f := 0xB0, pc := 0x0102 } 2
      [] ∧
    ends (start { bare with a := 0xFF } [0xCB, 0xBF] []) { bare with a := 0x7F, pc := 0x0102 } 2 [] ∧
    ends (start bare [0xCB, 0xC0] []) { bare with b := 0x01, pc := 0x0102 } 2 [] := by decide +kernel

/-- V202, V203, V205, V207. -/
theorem test_bits_of_memory :
    ends (start { bare with h := 0xC0, f := 0xC0 } [0xCB, 0x66] [(0xC000, 0x10)])
      { bare with h := 0xC0, f := 0x20, pc := 0x0102 } 3 [(0xC000, 0x10)] ∧
    ends (start { bare with h := 0xC1, f := 0xF0 } [0xCB, 0xDE] [(0xC100, 0x00)])
      { bare with h := 0xC1, f := 0xF0, pc := 0x0102 } 4 [(0xC100, 0x08)] ∧
    ends (start { bare with h := 0xC1 } [0xCB, 0x86] [(0xC100, 0xFE)]) { bare with h := 0xC1, pc := 0x0102 } 4
      [(0xC100, 0xFE)] ∧
    (let s := start { bare with h := 0xFF, l := 0x44 } [0xCB, 0xFE] []
     (after { s with io := { s.io with ly := 5 } }).io.ly = 5) := by decide +kernel

/-- V210, V212, V213 (step 1), V214 (step 1), V218. -/
theorem test_gate_instructions :
    ends (start bare [0x00] []) { bare with pc := 0x0101 } 1 [] ∧
    (let t := after { start bare [0xF3] [] with ime := true }; t.ime = false ∧ t.cycles = 1) ∧
    (let t := after (start bare [0xFB] []); t.ime = false ∧ t.imeDelay = 1 ∧ t.regs.pc = 0x0101) ∧
    (after { start bare [0xFB] [] with params := { Params.default with eiDelay := false } }).ime = true ∧
    (let t := after (start bare [0x76] []); t.halted = true ∧ t.regs.pc = 0x0101 ∧ t.cycles = 1) := by decide +kernel

/-- V213 (step 2): the instruction after `EI` still runs, and the gate is open at its end. -/
theorem test_ei_delay :
    (let t := after { start bare [0x00] [] with imeDelay := 1 }; t.ime = true ∧ t.imeDelay = 0 ∧ t.regs.pc = 0x0101) ∧
    (let t := after { start bare [0xFB] [] with imeDelay := 1 }; t.ime = true ∧ t.imeDelay = 0) := by decide +kernel

/-- V7, V220, V223, V224: the interrupt check at the start of an iteration. -/
theorem test_interrupt_check :
    (let s := start { bare with sp := 0xFFFE, pc := 0x1234 } [0x00] [(0x40, 0x00)]
     let t := { s with ime := true, io := { s.io with ie := 0x05, ifr := 0x05 } }
     ends t { bare with sp := 0xFFFC, pc := 0x0041 } 1 [(0xFFFD, 0x12), (0xFFFC, 0x34)] ∧ (after t).io.ifr = 0x04 ∧
       (after t).ime = false) ∧
    (let s := start { bare with sp := 0xFFFE, pc := 0x1234 } [0x00] [(0x48, 0x00)]
     let t := { s with ime := true, io := { s.io with ie := 0x1F, ifr := 0x1A } }
     ends t { bare with sp := 0xFFFC, pc := 0x0049 } 1 [(0xFFFD, 0x12), (0xFFFC, 0x34)] ∧ (after t).io.ifr = 0x18) ∧
    (let s := start { bare with sp := 0xFFFE, pc := 0x1234 } [0x00] []
     let t := { s with ime := true, io := { s.io with ie := 0xE0, ifr := 0x1F } }
     ends t { bare with sp := 0xFFFE, pc := 0x1235 } 1 []) ∧
    (let s := start { bare with sp := 0xFFFE, pc := 0x1234 } [0x00] [(0x50, 0x3C)]
     let t := { s with
       ime := true
       io := { s.io with ie := 0x04, ifr := 0x04 }
       params := { Params.default with intDispatchCycles := 5 } }
     ends t { bare with a := 0x01, sp := 0xFFFC, pc := 0x0051 } 6 []) := by decide +kernel

/-- V227 to V230: the wake of a halted CPU. -/
theorem test_halt_wake :
    (let s := start { bare with pc := 0x0201 } [0x00] []
     let t := { s with halted := true, irqLatch := true, io := { s.io with ifr := 0x04 } }
     ends t { bare with pc := 0x0202 } 1 [] ∧ (after t).halted = false ∧ (after t).irqLatch = false ∧
       (let u := { t with params := { Params.default with haltWake := .pending } };
         ends u { bare with pc := 0x0201 } 0 [] ∧ (after u).halted = true)) ∧
    (let s := start { bare with pc := 0x0201 } [0x00] []
     let t := { s with
       halted := true
       io := { s.io with ifr := 0x04, ie := 0x04 }
       params := { Params.default with haltWake := .pending } }
     ends t { bare with pc := 0x0202 } 1 [] ∧ (after t).halted = false) ∧
    (let s := start { bare with pc := 0x0201 } [0x00] [(0x50, 0x3C)]
     let t := { s with halted := true, irqLatch := true, ime := true, io := { s.io with ifr := 0x04, ie := 0x04 } }
     ends t { bare with a := 0x01, sp := 0xDFEE, pc := 0x0051 } 1 [(0xDFEF, 0x02), (0xDFEE, 0x01)]) := by
  decide +kernel

/-- The step raises a fault and leaves the registers and the cycle counter. -/
def faults (s : State) (e : CpuFault) : Bool :=
  (after s).cpuFault == some e && (after s).regs == s.regs && (after s).cycles == s.cycles

/-- V240, V247: the undefined opcodes and `STOP`. -/
theorem test_fatal_instructions :
    ([0xD3, 0xDB, 0xDD, 0xE3, 0xE4, 0xEB, 0xEC, 0xED, 0xF4, 0xFC, 0xFD] : List Byte).all
      (fun op => faults (start bare [op] []) (.illegalOpcode 0x0100 op)) ∧
    faults (start bare [0x10, 0x00] []) (.stopUnimplemented 0x0100) := by decide +kernel

/-- A state about to fetch its first byte from `IE`. -/
def atTop (ie : Byte) : State :=
  let s := start { bare with pc := 0xFFFF } [] []
  { s with io := { s.io with ie := ie } }

/-- V211, V241 to V246, V143: the top of the address space. -/
theorem test_top_of_memory :
    ends (atTop 0x00) { bare with pc := 0x0000 } 1 [] ∧ faults (atTop 0xD3) (.illegalOpcode 0xFFFF 0xD3) ∧
    faults (atTop 0x06) (.decodeOutOfBounds 0xFFFF) ∧ faults (atTop 0xCB) (.decodeOutOfBounds 0xFFFF) ∧
    faults (atTop 0x10) (.decodeOutOfBounds 0xFFFF) ∧
    faults (start { bare with pc := 0xFFFE } [0xC3] []) (.decodeOutOfBounds 0xFFFE) ∧
    (let s := start { bare with pc := 0xFFFD } [0xC3, 0x00] []
     ends { s with io := { s.io with ie := 0x02 } } { bare with pc := 0x0200 } 4 []) ∧
    (let s := start { bare with pc := 0xFFFE } [0x18] []
     ends { s with io := { s.io with ie := 0x05 } } { bare with pc := 0x0005 } 3 []) := by decide +kernel

/-- The prefix on its own (R275) does what its second byte says: `SWAP A`. -/
theorem test_prefix :
    let t := ran .prefixCb (start { bare with a := 0xF0, f := 0x10 } [0xCB, 0x37] [])
    t.regs = { bare with a := 0x0F, pc := 0x0102 } ∧ t.cycles = 2 := by decide +kernel

/-! ## The Timer and the PPU -/

/-- A state whose CPU idles, with the Timer's registers set. -/
def timed (tima tma : Byte) (tac : BitVec 3) (pos : TimerPos) (div : Nat) : State :=
  let s := start bare [] []
  { s with
    halted := true
    io := { s.io with tima := tima, tma := tma, tac := tac }
    timer := { s.timer with pos := pos, div := div } }

/-- V260, V261, V267, V265, V268: one cycle of the Timer. -/
theorem test_timer :
    (let t := after (timed 0xFF 0x80 5 .counting 3)
     t.io.tima = 0x80 ∧ t.io.ifr = 0b00100 ∧ t.irqLatch = true ∧ t.timer.div = 0) ∧
    (let t := after (timed 0x00 0x00 4 .counting 254); t.io.tima = 0x00 ∧ t.timer.div = 255) ∧
    (let t := after (timed 0x00 0x00 4 .counting 255); t.io.tima = 0x01 ∧ t.timer.div = 0) ∧
    (let t := after (timed 0x00 0x00 5 .counting 10); t.io.tima = 0x01 ∧ t.timer.div = 0) ∧
    (let t := after { timed 0x00 0x00 5 .blocked 3 with timerEnableLatch := true }
     t.io.tima = 0x00 ∧ t.timer.div = 1 ∧ t.timerEnableLatch = false) ∧
    (let t := after (timed 0x00 0x00 1 .blocked 0); t.io.tima = 0x00 ∧ t.timer.div = 0) := by decide +kernel

/-- A state whose CPU idles, with the PPU `dot` cycles into a phase of line `ly`. -/
def onLine (ly : Byte) (stat : BitVec 7) (lyc : Byte) (pos : PpuPos) (vblankLine dot : Nat) : State :=
  let s := start bare [] []
  { s with
    halted := true
    io := { s.io with ly := ly, stat := stat, lyc := lyc }
    ppu := { s.ppu with pos := pos, vblankLine := vblankLine, dot := dot } }

/-- V280, V281, V283, V285: the phases of a line and its interrupts. -/
theorem test_ppu_line :
    (after (onLine 0 0b0000110 0 (.oamSearch .hold) 0 19)).io.mode = 3 ∧
    (let t := after (onLine 0 0b0001111 0x63 (.pixelTransfer .hold) 0 42); t.io.mode = 0 ∧ t.io.ifr = 0b00010) ∧
    (let t := after (onLine 2 0b1000111 2 (.pixelTransfer .hold) 0 42); t.io.mode = 0 ∧ t.io.ifr = 0b00010) ∧
    (let t := after (onLine 0 0b0000111 2 (.pixelTransfer .hold) 0 42); t.io.mode = 0 ∧ t.io.ifr = 0b00000) ∧
    (let t := after (onLine 0 0b0000100 0 (.hBlank .hold) 0 50)
     t.io.ly = 1 ∧ t.io.coincidence = false ∧ t.io.mode = 2 ∧ t.ppu.dot = 0) ∧
    (let t := after (onLine 1 0b0100000 2 (.hBlank .hold) 0 50)
     t.io.ly = 2 ∧ t.io.coincidence = true ∧ t.io.mode = 2 ∧ t.io.ifr = 0b00010) := by decide +kernel

/-- R400, R402: a listed turn of the PPU ends a hold, and the phase after it is held from `ppu_dot` = 0. -/
theorem test_free_turn_ends_hold :
    (let s := { onLine 0 0 0 (.hBlank .hold) 0 50 with turns := [.ppu] }
     (after s).ppu.pos = .hBlank .incLy ∧ (after s).ppu.dot = 0 ∧ (after s).turns = []) ∧
    (let t := after (onLine 0 0 0 (.hBlank .incLy) 0 0)
     t.ppu.pos = .oamSearch .hold ∧ t.ppu.dot = 1) := by decide +kernel

/-- V280, V284: VBlank. -/
theorem test_ppu_vblank :
    (let s := onLine 143 0b0010000 144 (.hBlank .hold) 0 50
     let t := after s
     t.io.ly = 144 ∧ t.io.mode = 1 ∧ t.io.ifr = 0b00001 ∧ t.irqLatch = true ∧
       (after { s with params := { Params.default with ppuVblankStatInt := true } }).io.ifr = 0b00011) ∧
    (let t := after (onLine 144 0b0000001 0 (.vBlank .hold) 0 113); t.io.ly = 145 ∧ t.ppu.vblankLine = 1) ∧
    (let t := after (onLine 153 0b0000001 0 (.vBlank .hold) 9 113)
     t.io.ly = 0 ∧ t.io.coincidence = true ∧ t.io.mode = 2 ∧ t.ppu.windowLine = 0) := by decide +kernel

/-- Bytes by address, all others 0. -/
def bytesAt (m : List (Nat × Byte)) (k : Nat) : Byte := (listGet k m).getD 0

def lineRegs (lcdc ly : Byte) : LineRegs :=
  { lcdc := lcdc, scy := 0, scx := 0, wy := 0, wx := 0, bgp := 0xE4, obp0 := 0xE4, obp1 := 0xE4, ly := ly }

/-- The first `n` shades of a line composed from the bytes given, the objects selected from them. -/
def shades (m : List (Nat × Byte)) (r : LineRegs) (wy n : Nat) : List Shade :=
  (List.range n).map (composeColumn (bytesAt m) r (bit r.lcdc 2) (lineObjects (bytesAt m) (bit r.lcdc 2) r.ly) wy)

/-- V90, V8: object priority by unequal and by equal `x`. -/
theorem test_object_priority :
    shades [(0x8010, 0xFF), (0x8021, 0xFF), (0xFE00, 0x10), (0xFE01, 0x0C), (0xFE02, 1), (0xFE04, 0x10),
      (0xFE05, 0x0A), (0xFE06, 2), (0xFE07, 0x10)] { lineRegs 0x93 0 with obp1 := 0x36 } 0 14
      = [0, 0, 3, 3, 3, 3, 3, 3, 3, 3, 1, 1, 0, 0] ∧
    shades [(0x8010, 0xFF), (0x8021, 0xFF), (0xFE00, 0x10), (0xFE01, 0x0C), (0xFE02, 1), (0xFE04, 0x10),
      (0xFE05, 0x0C), (0xFE06, 2), (0xFE07, 0x10)] { lineRegs 0x93 0 with obp1 := 0x36 } 0 14
      = [0, 0, 0, 0, 1, 1, 1, 1, 1, 1, 1, 1, 0, 0] := by decide +kernel

/-- V91: eleven objects on a line, the eleventh dropped although it is the only one on screen. -/
theorem test_object_limit :
    shades ((0x8010, 0x80) :: (List.range 11).flatMap (fun k =>
      [(0xFE00 + 4 * k, 0x10), (0xFE01 + 4 * k, if k = 10 then 8 else 0), (0xFE02 + 4 * k, 1)])) (lineRegs 0x93 0) 0 1
      = [0] ∧
    shades ((0x8010, 0x80) :: (List.range 10).flatMap (fun k =>
      [(0xFE00 + 4 * k, 0x10), (0xFE01 + 4 * k, if k = 9 then 8 else 0), (0xFE02 + 4 * k, 1)])) (lineRegs 0x93 0) 0 1
      = [1] := by decide +kernel

/-- The tiles and the entry of V92. -/
def tallObject (flags : Byte) : List (Nat × Byte) :=
  [(0x8040, 0xC0), (0x8042, 0x80), (0x8044, 0x80), (0x8046, 0x80), (0x8048, 0x80), (0x804A, 0x80), (0x804C, 0x80),
    (0x804E, 0x80), (0x8051, 1), (0x8053, 1), (0x8055, 1), (0x8057, 1), (0x8059, 1), (0x805B, 1), (0x805D, 1),
    (0x805F, 1), (0xFE00, 0x10), (0xFE01, 0x08), (0xFE02, 5), (0xFE03, flags)]

/-- V92: 8 x 16 objects and flips. -/
theorem test_tall_objects :
    shades (tallObject 0x00) (lineRegs 0x97 0) 0 8 = [1, 1, 0, 0, 0, 0, 0, 0] ∧
    shades (tallObject 0x00) (lineRegs 0x97 8) 0 8 = [0, 0, 0, 0, 0, 0, 0, 2] ∧
    shades (tallObject 0x00) (lineRegs 0x97 16) 0 8 = [0, 0, 0, 0, 0, 0, 0, 0] ∧
    shades (tallObject 0x40) (lineRegs 0x97 15) 0 8 = [1, 1, 0, 0, 0, 0, 0, 0] ∧
    shades (tallObject 0x60) (lineRegs 0x97 15) 0 8 = [0, 0, 0, 0, 0, 0, 1, 1] ∧
    shades (tallObject 0x00) (lineRegs 0x93 7) 0 8 = [0, 0, 0, 0, 0, 0, 0, 2] ∧
    shades (tallObject 0x00) (lineRegs 0x91 0) 0 8 = [0, 0, 0, 0, 0, 0, 0, 0] := by decide +kernel

/-- V93: tile addressing, signed and unsigned. -/
theorem test_tile_addressing :
    shades [(0x97F0, 0xA5), (0x97F1, 0x0F), (0x9800, 0x7F)] (lineRegs 0x81 0) 0 8 = [1, 0, 1, 0, 2, 3, 2, 3] ∧
    shades [(0x8800, 0xA5), (0x8801, 0x0F), (0x9800, 0x80)] (lineRegs 0x81 0) 0 8 = [1, 0, 1, 0, 2, 3, 2, 3] ∧
    shades [(0x8FF0, 0xA5), (0x8FF1, 0x0F), (0x9800, 0xFF)] (lineRegs 0x91 0) 0 8 = [1, 0, 1, 0, 2, 3, 2, 3] := by
  decide +kernel

/-- V94: scrolling, the palette, `BG_ENABLE` = 0 and `LCD_ENABLE` = 0. -/
theorem test_scrolling_and_palettes :
    let m : List (Nat × Byte) := [(0x8010, 0xFF), (0x8021, 0xFF), (0x9800, 2), (0x981F, 1)]
    let r := { lineRegs 0x91 1 with scx := 0xFC, scy := 0xFF }
    shades m r 0 12 = [1, 1, 1, 1, 2, 2, 2, 2, 2, 2, 2, 2] ∧
    shades m { r with bgp := 0x1B } 0 12 = [2, 2, 2, 2, 1, 1, 1, 1, 1, 1, 1, 1] ∧
    shades m { r with lcdc := 0x90, bgp := 0xE7 } 0 3 = [3, 3, 3] ∧
    shades m { r with lcdc := 0x11, bgp := 0xE7 } 0 3 = [0, 0, 0] := by decide +kernel

/-- V96: the window's columns and the advance of its line counter. -/
theorem test_window :
    let m : List (Nat × Byte) := [(0x8010, 0xFF), (0x8021, 0xFF), (0x9C00, 1), (0x9C01, 2)]
    shades m { lineRegs 0xF1 0 with wx := 7 } 0 12 = [1, 1, 1, 1, 1, 1, 1, 1, 2, 2, 2, 2] ∧
    shades m { lineRegs 0xF1 0 with wx := 0 } 0 12 = [1, 2, 2, 2, 2, 2, 2, 2, 2, 0, 0, 0] ∧
    shades m { lineRegs 0xF1 0 with wx := 0x0A } 0 12 = [0, 0, 0, 1, 1, 1, 1, 1, 1, 1, 1, 2] ∧
    windowDrawn { lineRegs 0xF1 0 with wx := 0xA6 } = true ∧
        windowDrawn { lineRegs 0xF1 0 with wx := 0xA7 } = false := by
  decide +kernel

/-! ## Interleaving -/

/-- R72, R75, R301: an agent may write between the read and the write of one instruction. -/
theorem test_read_modify_write_is_two_actions :
    let s := start { bare with h := 0xFF, l := 0x07 } [] []
    let t := ran .incM { s with
      turns := [.host (.writeTac 0x05), .cpu, .host (.writeTac 0x02), .cpu, .timer],
      params := { Params.default with unusedIoBits := .ones } }
    t.io.tac = 0x06 ∧ t.turns = [.timer] := by decide +kernel

/-- R402: under the reference schedule no turn passes inside an instruction. -/
theorem test_lockstep_instruction_is_whole :
    let s := start { bare with h := 0xFF, l := 0x07 } [] []
    let t := ran .incM { s with
      turns := [.host (.writeTac 0x05)],
      params := { Params.default with sched := .lockstep, unusedIoBits := .ones } }
    t.io.tac = 0x01 ∧ t.turns.length = 1 := by decide +kernel

/-- R304, R306: the three actions of a key of a selected line that goes down, one turn each. -/
theorem test_key_then_request_then_latch :
    let s := (start bare [] []).hostAction (.key .a true)
    let t := s.hostAction .proceed
    s.joypad.a = true ∧ s.io.ifr = 0x00 ∧ t.io.ifr = 0x10 ∧ t.irqLatch = false ∧
      (t.hostAction .proceed).irqLatch = true := by decide +kernel

/-- A machine under the reference schedule, its PPU at the end of OAM-search, that enters an interrupt and parks: the five
cycles of the entry do not carry the PPU past the boundary (R368, R408; log entry 12). -/
theorem test_parks_after_entry :
    let s := start bare [] []
    let t := after { s with
      ime := true
      stepMode := true
      io := { s.io with ie := 1, ifr := 1, stat := 2 }
      ppu := { s.ppu with pos := .oamSearch .hold, dot := 18 }
      params := { Params.default with sched := .lockstep, intDispatchCycles := 5 } }
    t.regs.pc = 0x40 ∧ t.cpuParked = true ∧ t.cycles = 5 ∧ t.ppu.pos = .pixelTransfer .start ∧ t.ppu.parked = true ∧
      t.timer.parked = true ∧ t.io.mode = 2 := by decide +kernel

/-- Resume and Pause of a parked machine: the start action of the parked PPU comes ahead of the instruction that the CPU
executes (R408, R411; log entry 33). -/
theorem test_single_step_after_start_action :
    let s := start { bare with h := 0xFF, l := 0x41 } [0xCB, 0x46] []
    let t := after { s with
      cpuParked := true
      cpuPos := .decode
      stepMode := true
      turns := [.host .resume, .host .pause, .cpu]
      io := { s.io with stat := 2 }
      timer := { s.timer with parked := true }
      ppu := { s.ppu with pos := .pixelTransfer .start, parked := true }
      params := { Params.default with sched := .lockstep, unusedIoBits := .ones } }
    t.regs.pc = 0x0102 ∧ t.io.mode = 3 ∧ zeroOf t.regs.f = false ∧ t.ppu.dot = 3 := by decide +kernel

/-- The next step fetches the word placed, from reset. -/
theorem test_withFetchWord :
    (after (State.reset.withFetchWord 16 0xCB37)).regs.pc = 0x0102 ∧
      (after (State.reset.withFetchWord 24 0xC000CD)).regs.pc = 0xC000 := by decide +kernel

/-! ## Witnesses: what meets the hypotheses of each claim -/

theorem exec_ran (i : Instr) (s : State) : exec i s = .next (ran i s) := by
  obtain ⟨t, h⟩ := exec_answers i s
  simp [ran, h]

/-- The step answers a next state. -/
def answers (s : State) : Bool :=
  match step s with
  | .next _ => true
  | .fault _ => false
  | .refused _ => false

theorem step_after (s : State) (h : answers s = true) : step s = .next (after s) := by
  unfold answers at h
  unfold after
  split at h <;> simp_all

theorem witness_DecodeEncode :
    (Instr.ldRrD16 .sp 0xFFFF).wellFormed = true ∧ Instr.ldRrD16 .sp 0xFFFF ≠ .prefixCb ∧
      (Instr.rst 0x38).wellFormed = true ∧ Instr.rst 0x38 ≠ .prefixCb := by decide +kernel

theorem witness_EncodeDecode :
    decode [0xFF, 0x12] = .ok (.rst 0x38, [0x12]) ∧ decode [0xCB, 0xFF] = .ok (.setR 7 .a, []) := ⟨rfl, rfl⟩

theorem witness_CyclesAdvanceByCost :
    let s := start { bare with f := 0x10 } [] []
    Instr.callCc .c 0x1234 ≠ .prefixCb ∧ exec (.callCc .c 0x1234) s = .next (ran (.callCc .c 0x1234) s) ∧
      (ran (.callCc .c 0x1234) s).cpuFault = none ∧ exec (.callCc .nc 0x1234) s = .next (ran (.callCc .nc 0x1234) s) ∧
      (ran (.callCc .nc 0x1234) s).cpuFault = none :=
  ⟨by decide +kernel, exec_ran _ _, by decide +kernel, exec_ran _ _, by decide +kernel⟩

theorem witness_LoadsOfRegisters : Reg16.bc.inRp = true ∧ Reg16.sp.inRp = true := by decide +kernel

/-- A push at the top of high RAM; the addresses on either side of the two stored bytes. -/
theorem witness_MemoryFrame :
    let s := start { bare with sp := 0xFFFF } [] []
    let x := { s with params := { Params.default with cart := .external } }
    Instr.pushRr .af ≠ .prefixCb ∧ s.quiet = true ∧ exec (.pushRr .af) s = .next (ran (.pushRr .af) s) ∧
      [0xFFFF#16, 0xFFFC#16].all (fun a => (storesOf (.pushRr .af) s).all (storageKey · != storageKey a)) ∧
      s.params.cart = .flat ∧ x.quiet = true ∧ exec (.pushRr .af) x = .next (ran (.pushRr .af) x) ∧
      (storesOf (.pushRr .af) x).all (storageKey · != storageKey 0x7FFF) ∧
      (storesOf (.pushRr .af) x).all (isCart · == false) ∧ isCart 0xFFFC = false :=
  ⟨by decide +kernel, by decide +kernel, exec_ran _ _, by decide +kernel, by decide +kernel, by decide +kernel,
      exec_ran _ _, by decide +kernel, by decide +kernel, by decide +kernel⟩

theorem witness_EngineFrame :
    let s := start bare [] []
    s.quiet = true ∧ exec (.ldhA8A 0x0E) s = .next (ran (.ldhA8A 0x0E) s) ∧
      (storesOf (.ldhA8A 0x0E) s).all (· != 0xFF0F) ∧ exec (.ldhA8A 0x08) s = .next (ran (.ldhA8A 0x08) s) ∧
      (storesOf (.ldhA8A 0x08) s).all (· != 0xFF07) ∧ Instr.ldhA8A 0x08 ≠ .prefixCb ∧ Instr.ldhA8A 0x08 ≠ .halt ∧
      Instr.ldhA8A 0x08 ≠ .di ∧ Instr.ldhA8A 0x08 ≠ .ei ∧ Instr.ldhA8A 0x08 ≠ .reti :=
  ⟨by decide +kernel, exec_ran _ _, by decide +kernel, exec_ran _ _, by decide +kernel, by decide +kernel,
      by decide +kernel, by decide +kernel, by decide +kernel, by decide +kernel⟩

theorem witness_PushAndPop : Reg16.bc.inRp2 = true ∧ Reg16.af.inRp2 = true := by decide +kernel

theorem witness_PushPopRoundTrip :
    Reg16.af.inRp2 = true ∧ [0x8002#16, 0xA000#16, 0xC002#16, 0xFEA0#16, 0xFF82#16, 0xFFFF#16].all (fun sp =>
      let s := start { bare with f := 0xF0, sp := sp } [] []
      s.quiet && s.regs.f &&& 0x0F == 0 && isPlain (s.regs.sp - 1) && isPlain (s.regs.sp - 2)) := by decide +kernel

theorem witness_DecimalAdjust : daaRow 0x9A 0x00 ≠ none ∧ daaRow 0x04 0x20 = none := by decide +kernel

theorem witness_DecimalAdjustRows : ∃ row, daaRow 0x66 0x70 = some row := ⟨_, rfl⟩

theorem witness_PairArithmetic : Reg16.bc.inRp = true ∧ Reg16.sp.inRp = true := by decide +kernel

theorem witness_Calls : (0 : Nat) < 8 ∧ (7 : Nat) < 8 := by decide +kernel

theorem witness_BitInstructions : (0 : Nat) < 8 ∧ 7 ≠ (0#3).toNat ∧ 7 = (7#3).toNat := by decide +kernel

theorem witness_GateInstructions :
    let s := start bare [] []
    s.cpuFault = none ∧ s.imeDelay = 0 ∧ { s with imeDelay := 1 }.imeDelay = 1 ∧
        2 ≤ { s with imeDelay := 2 }.imeDelay := by
  decide +kernel

/-- With `NOP` and with a second `EI` as the next instruction. -/
theorem witness_GateOpensAfterNext :
    let s := start bare [] []
    let t := ran .ei s
    s.params.eiDelay = true ∧ s.ime = false ∧ s.imeDelay = 0 ∧ s.cpuFault = none ∧ exec .ei s = .next t ∧
      (∀ j ∈ [Instr.nop, .ei], exec j t.countImeDelay = .next (ran j t.countImeDelay) ∧
        (ran j t.countImeDelay).cpuFault = none ∧ j ≠ .di) := by
  refine ⟨by decide +kernel, by decide +kernel, by decide +kernel, by decide +kernel, exec_ran _ _,
      fun j hj => ⟨exec_ran _ _, ?_, ?_⟩⟩
  all_goals
    simp only [List.mem_cons, List.not_mem_nil, or_false] at hj
    rcases hj with rfl | rfl
    all_goals decide +kernel

theorem witness_Prefix :
    (start { bare with pc := 0xFFFF } [] []).regs.pc = 0xFFFF ∧
        (start { bare with pc := 0xFFFE } [] []).regs.pc ≠ 0xFFFF := by
  decide +kernel

theorem witness_InterruptEntry : (0 : Nat) < 5 ∧ (4 : Nat) < 5 := by decide +kernel

/-- The gate closed; nothing pending and enabled; the highest and the lowest source alone. -/
theorem witness_InterruptCheck :
    let s := start bare [] []
    let open' (ie : Byte) (ifr : BitVec 5) := { s with ime := true, io := { s.io with ie := ie, ifr := ifr } }
    s.quiet = true ∧ s.ime = false ∧
      (∀ i, i < 5 → ¬ ((open' 0xE0 0x1F).io.ifr.getLsbD i = true ∧ (open' 0xE0 0x1F).io.ie.getLsbD i = true)) ∧
      ((open' 0x1F 0x1F).io.ifr.getLsbD 0 = true ∧ (open' 0x1F 0x1F).io.ie.getLsbD 0 = true) ∧
      (open' 0x1F 0x10).ime = true ∧ ((open' 0x1F 0x10).io.ifr.getLsbD 4 = true ∧
          (open' 0x1F 0x10).io.ie.getLsbD 4 = true) ∧
      (∀ j, j < 4 → ¬ ((open' 0x1F 0x10).io.ifr.getLsbD j = true ∧ (open' 0x1F 0x10).io.ie.getLsbD j = true)) := by
  decide +kernel

theorem witness_InterruptRequests :
    let s := start bare [] []
    (0 : Nat) < 5 ∧ (4 : Nat) < 5 ∧ s.hostPos = .idle ∧ keyIsDown s.joypad .right = false ∧
      s.io.p1Sel.getLsbD 0 = false ∧ keyIsDown s.joypad .start = false ∧ s.io.p1Sel.getLsbD 1 = false ∧
      Key.left ≠ .right ∧ keyIsDown (s.joypad.put .up true) .up = true ∧
      { s with io := { s.io with p1Sel := 3 } }.io.p1Sel.getLsbD 1 = true := by decide +kernel

theorem witness_HaltWake :
    let s := { start bare [] [] with halted := true, irqLatch := true }
    let u := { s with
      irqLatch := false
      io := { s.io with ifr := 0x10, ie := 0x10 }
      params := { Params.default with haltWake := .pending } }
    s.halted = true ∧ s.params.haltWake = .latch ∧ s.irqLatch = true ∧ s.cpuFault = none ∧ s.cpuParked = false ∧
      s.cpuCanStep = true ∧ u.halted = true ∧ u.params.haltWake = .pending ∧
      (∃ i, i < 5 ∧ u.io.ifr.getLsbD i = true ∧ u.io.ie.getLsbD i = true) ∧ u.cpuFault = none ∧
      u.cpuParked = false ∧ u.cpuCanStep = true := by decide +kernel

/-- A running CPU that moves; a halted one whose requests are not enabled; and a parked one. -/
theorem witness_LatchIsKept :
    let s := { start bare [0x76] [] with irqLatch := true }
    let h := { s with halted := true, params := { Params.default with haltWake := .pending } }
    let p := { s with halted := true, cpuParked := true, cpuPos := .decode }
    (step s = .next (after s) ∧ s.halted = false ∧ s.cpuMoves = true ∧ s.irqLatch = true) ∧
      (step h = .next (after h) ∧ h.cpuMoves = false ∧ h.irqLatch = true) ∧
      (step p = .next (after p) ∧ p.cpuMoves = false ∧ p.irqLatch = true) :=
  ⟨⟨step_after _ (by decide +kernel), by decide +kernel, by decide +kernel, by decide +kernel⟩,
    ⟨step_after _ (by decide +kernel), by decide +kernel, by decide +kernel⟩,
    step_after _ (by decide +kernel), by decide +kernel, by decide +kernel⟩

theorem witness_FaultIsFinal :
    let s := { start bare [] [] with cpuFault := some (.stopUnimplemented 0x0100) }
    step s = .next (after s) ∧ s.cpuFault ≠ none := ⟨step_after _ (by decide +kernel), by decide +kernel⟩

/-- A 3-byte instruction at `0xFFFE`, and a 2-byte one at `0xFFFF`. -/
theorem witness_DecodeOutOfBounds :
    (let s := start { bare with pc := 0xFFFE } [0xC3] []
     0xFFFF < s.regs.pc.toNat + opLength (s.yield.peek s.regs.pc) - 1) ∧
    (let s := atTop 0x18
     0xFFFF < s.regs.pc.toNat + opLength (s.yield.peek s.regs.pc) - 1) := by decide +kernel

theorem witness_ReadAfterWrite :
    region 0xFEA0 = .reserved ∧ region 0xFEFF = .reserved ∧ State.reset.params.cart = .flat ∧
      [0x0000#16, 0x7FFF#16, 0xA000#16, 0xBFFF#16].all isCart ∧ region 0xA000 = .cartRam ∧
      region 0xBFFF = .cartRam ∧
      [0x8000#16, 0x9FFF#16, 0xC000#16, 0xDFFF#16, 0xE000#16, 0xFDFF#16, 0xFE00#16, 0xFE9F#16, 0xFF80#16, 0xFFFE#16].all
        isPlain ∧
      [(0xC000#16, 0xE000#16), (0xDDFF#16, 0xFDFF#16)].all
        (fun a => a.1.toNat < 0xDE00 && a.2.toNat == a.1.toNat + 0x2000 && region a.1 == .wram &&
          region a.2 == .wramAlias) ∧
      [0xFF01#16, 0xFF04#16, 0xFF08#16, 0xFF46#16, 0xFF4C#16, 0xFF7F#16].all
        (fun a => region a == .io && !designatedAddresses.contains a.toNat) := by decide +kernel

theorem witness_RegisterReads :
    { start bare [] [] with params := { Params.default with unusedIoBits := .ones } }.params.unusedIoBits = .ones := by
  decide +kernel

/-- One state for each clause, `timer_div` at the last tick of a period and at the one before it. -/
theorem witness_TimerCycle :
    (∀ s ∈ [timed 0 0 0 .counting 0, timed 0xFF 0x80 5 .counting 3, timed 0xFE 0x80 5 .counting 3,
        timed 0 0 5 .counting 2,
        timed 0 0 7 .counting 63, timed 0 0 4 .counting 254, timed 0 0 4 .blocked 0],
      s.timer.parked = false ∧ s.stepMode = false ∧ s.params.divFreeRunning = false) ∧
    ((timed 0 0 0 .counting 0).timer.pos = .counting ∧ (timed 0 0 0 .counting 0).io.timerEnable = false) ∧
    (let s := timed 0xFF 0x80 5 .counting 3
     s.timer.pos = .counting ∧ s.io.timerEnable = true ∧ (s.io.tac.toNat % 4, 4) ∈ [(0, 256), (1, 4), (2, 16),
         (3, 64)] ∧
       4 ≤ s.timer.div + 1 ∧ s.io.tima = 0xFF) ∧
    (let s := timed 0xFE 0x80 5 .counting 3; 4 ≤ s.timer.div + 1 ∧ s.io.tima ≠ 0xFF) ∧
    (let s := timed 0 0 4 .counting 254
     s.io.timerEnable = true ∧ (s.io.tac.toNat % 4, 256) ∈ [(0, 256), (1, 4), (2, 16), (3, 64)] ∧
         s.timer.div + 1 < 256) ∧
    (let s := timed 0 0 4 .blocked 0
     s.timer.pos = .blocked ∧ s.timerEnableLatch = false ∧ s.io.timerEnable = true ∧
       { s with timerEnableLatch := true }.timerEnableLatch = true ∧
           (timed 0 0 3 .blocked 0).io.timerEnable = false) ∧
    ((timed 0 0 0 .blocked 0).timer.divCount < 64 ∧
      { timed 0 0 0 .blocked 0 with timer := ⟨.blocked, 0, false, 63⟩ }.timer.divCount < 64 ∧
      { Params.default with divFreeRunning := true }.divFreeRunning = true ∧ 0xFF05#16 ≠ 0xFF04#16) := by
  decide +kernel

/-- Eleven covering entries, and one more that does not cover the line. -/
theorem witness_ObjectSelection :
    let rd (k : Nat) : Byte := if k < 0xFE00 + 4 * 11 then 0x10 else 0
    (objEntry rd 9) ∈ selectObjs rd false 0 ∧ coversLine (objEntry rd 10) false (0#8).toNat ∧
      objEntry rd 10 ∉ selectObjs rd false 0 ∧ (10 : Nat) < 40 := by
  refine ⟨by decide +kernel, ?_, by decide +kernel, by decide⟩
  simp [coversLine, objEntry]

/-- The LCD off; a column no object covers; objects off; an object in front of the background on its first and its last
column; and one that is off the column, transparent, or behind a background that is not 0. -/
theorem witness_Composition :
    let rd := bytesAt [(0x8010, 0xFF)]
    let o : ObjEntry := { y := 0x10, x := 0x0C, tile := 1, flags := 0, index := 0 }
    (lineRegs 0x11 0).lcdc.getLsbD 7 = false ∧ (lineRegs 0x93 0).lcdc.getLsbD 7 = true ∧
      (lineRegs 0x91 0).lcdc.getLsbD 1 = false ∧ (lineRegs 0x93 0).lcdc.getLsbD 1 = true ∧
      (∀ p ∈ [o], ¬ (p.x.toNat ≤ 3 + 8 ∧ 3 < p.x.toNat)) ∧ (∀ p ∈ [o], ¬ (p.x.toNat ≤ 12 + 8 ∧ 12 < p.x.toNat)) ∧
      (∀ col ∈ [4, 11], o.x.toNat ≤ col + 8 ∧ col < o.x.toNat ∧ objectColour rd false 0 o col ≠ 0 ∧
        ¬ (o.flags.getLsbD 7 = true ∧ layerColour rd (lineRegs 0x93 0) 0 col ≠ 0)) ∧
      objectColour rd false 0 { o with tile := 2 } 4 = 0 ∧
      (layerColour (bytesAt [(0x8000, 0xFF)]) (lineRegs 0x93 0) 0 4 ≠ 0 ∧
        { o with flags := 0x80 }.flags.getLsbD 7 = true) := by decide +kernel

/-- The background on and off; the first and the last column of a window; a tall object's last row, its columns at both
ends. -/
theorem witness_PixelColours :
    let r (wx : Byte) : LineRegs := { lineRegs 0xF1 0 with wx := wx }
    let o : ObjEntry := { y := 0x01, x := 0x0C, tile := 1, flags := 0x60, index := 0 }
    (0 : Nat) < 160 ∧ 159 < 160 ∧ (lineRegs 0x90 0).lcdc.getLsbD 0 = false ∧ (lineRegs 0x91 0).lcdc.getLsbD 0 = true ∧
      (lineRegs 0x91 0).lcdc.getLsbD 5 = false ∧
      ((r 7).lcdc.getLsbD 0 = true ∧ (r 7).lcdc.getLsbD 5 = true ∧ (r 7).wy.toNat ≤ (r 7).ly.toNat ∧
        (r 7).wx.toNat ≤ 0 + 7 ∧ (r 0xA6).wx.toNat ≤ 159 + 7 ∧ ¬ (r 0xA6).wx.toNat ≤ 158 + 7) ∧
      (o.y.toNat ≤ 0 + 16 ∧ 0 + 16 < o.y.toNat + 16) ∧ (∀ col ∈ [4, 11], o.x.toNat ≤ col + 8 ∧ col < o.x.toNat) := by
  decide +kernel

/-- A window that begins in the last column, and one that begins after it. -/
theorem witness_WindowCounter :
    let s := onLine 0 3 0 (.pixelTransfer .write) 0 0
    let r (wx : Byte) : LineRegs := { lineRegs 0xF1 0 with wx := wx }
    s.ppu.pos = .pixelTransfer .write ∧
      ((r 0xA6).lcdc.getLsbD 7 = true ∧ (r 0xA6).lcdc.getLsbD 5 = true ∧ (r 0xA6).lcdc.getLsbD 0 = true ∧
        (r 0xA6).wy.toNat ≤ (r 0xA6).ly.toNat ∧ ∃ col, col < 160 ∧ (r 0xA6).wx.toNat ≤ col + 7) ∧
      ¬ ∃ col, col < 160 ∧ (r 0xA7).wx.toNat ≤ col + 7 := by
  refine ⟨by decide +kernel, ⟨by decide +kernel, by decide +kernel, by decide +kernel, by decide +kernel, 159,
      by decide +kernel, by decide +kernel⟩, ?_⟩
  rintro ⟨col, h, h'⟩
  simp at h'
  omega

/-- Each phase's start, and each phase's hold in the last cycle of its budget and in the one before it. -/
theorem witness_PhaseStarts :
    (onLine 0 0 0 (.oamSearch .start) 0 0).ppu.pos = .oamSearch .start ∧
      (onLine 143 2 0 (.pixelTransfer .start) 0 0).ppu.pos = .pixelTransfer .start ∧
      142 ≠ (onLine 143 2 0 (.pixelTransfer .start) 0 0).io.ly.toNat ∧
      (onLine 0 0 0 (.hBlank .start) 0 0).ppu.pos = .hBlank .start ∧
      (∀ p ∈ [(PpuPos.oamSearch .hold, 20), (.pixelTransfer .hold, 43), (.hBlank .hold, 51), (.vBlank .hold, 114)],
        let s := onLine 0 0 0 p.1 0 (p.2 - 1)
        s.ppu.parked = false ∧ s.stepMode = false ∧ s.ppu.dot + 0 < p.2 ∧ s.ppu.dot + 1 = p.2 ∧
        (s.ppu.pos, p.2) ∈ [(PpuPos.oamSearch .hold, s.params.phaseBudget.oamSearch),
          (.pixelTransfer .hold, s.params.phaseBudget.pixelTransfer), (.hBlank .hold, s.params.phaseBudget.hBlank),
          (.vBlank .hold, s.params.phaseBudget.vBlankLine)]) := by decide +kernel

theorem witness_LineEnds :
    (onLine 0 0 0 (.hBlank .hold) 0 0).io.ly ≠ 143 ∧ (onLine 142 0 0 (.hBlank .hold) 0 0).io.ly ≠ 143 ∧
    (onLine 142 0 0 (.hBlank .hold) 0 0).ppu.pos = .hBlank .hold ∧
    (onLine 143 0 0 (.hBlank .hold) 0 0).io.ly = 143 ∧
    (let s := onLine 152 1 0 (.vBlank .hold) 8 0; s.ppu.pos = .vBlank .hold ∧ s.ppu.vblankLine < 9) ∧
    (let s := onLine 153 1 0 (.vBlank .hold) 9 0; s.ppu.pos = .vBlank .hold ∧ 9 ≤ s.ppu.vblankLine) := by decide +kernel

theorem witness_OnlyThePpuWritesItsState : Turn.timer ≠ .ppu ∧ Turn.host (.writeTac 5) ≠ .ppu := by decide +kernel

/-- A 3-byte instruction at the start of a program, and one whose last byte is at `0xFFFF`; inputs of the host ahead of a
pass; and a list with a turn of each kind, of a CPU that can take its turn and of one that cannot. -/
theorem witness_StepRunsDecodedInstruction :
    (let s := start bare [0xC3, 0x50, 0x01] []
     let s1 := s.settle.beforeDecode
     s.turns = [] ∧ s.settle.cpuCanStep = true ∧ s.cpuPos = .top ∧ s.settle.stepMode = false ∧
       [0xC3#8, 0x50, 0x01].length = opLength (s1.peek s1.regs.pc) ∧
       (∀ k, k < 3 → [0xC3#8, 0x50, 0x01][k]? = some (State.peek { s1 with draws := s1.draws + k }
         (s1.regs.pc + BitVec.ofNat 16 k))) ∧
       s1.regs.pc.toNat + 3 ≤ 65536 ∧ decode [0xC3, 0x50, 0x01] = .ok (.jp 0x0150, [])) ∧
    (let s := start { bare with pc := 0xFFFD } [0xC3, 0x00] []
     let u := { s with io := { s.io with ie := 0x02 } }
     u.settle.beforeDecode.regs.pc.toNat + opLength (u.settle.beforeDecode.peek 0xFFFD) = 65536) ∧
    (let s := { start bare [] [] with turns := [.host (.key .a true), .host .pause] }
     s.turns = [HostAction.key .a true, .pause].map Turn.host ∧ s.params.sched = .free ∧
       { Params.default with sched := .lockstep }.sched = .lockstep) ∧
    (let s := { start bare [] [] with turns := [.ppu, .timer, .div, .host .pause, .cpu, .cpu] }
     s.params.sched = .free ∧ s.turns = [Turn.ppu, .timer, .div, .host .pause] ++ .cpu :: [.cpu] ∧
       Turn.cpu ∉ [Turn.ppu, .timer, .div, .host .pause] ∧ s.cpuCanStep = true ∧
       { s with halted := true }.cpuCanStep = false) := by
  refine ⟨⟨by decide +kernel, by decide +kernel, by decide +kernel, by decide +kernel, by decide +kernel,
      by decide +kernel,
    by decide +kernel, rfl⟩, by decide +kernel, by decide +kernel, by decide +kernel⟩

theorem witness_IdleCycle :
    let s := { start bare [] [] with halted := true }
    s.turns = [] ∧ s.settle.cpuCanStep = false := by decide +kernel

/-- A CPU that will park; a PPU at a boundary, away from one, and in the last cycle of a phase; a Timer between ticks and
inside an overflow; a machine that has been resumed; and one with everything parked. -/
theorem witness_DebugGate :
    let s := { start bare [] [] with stepMode := true }
    let p := { s with
      cpuParked := true
      cpuPos := .decode
      timer := { s.timer with parked := true }
      ppu := { s.ppu with parked := true } }
    let at' (pos : PpuPos) (dot : Nat) := { s with ppu := { s.ppu with pos := pos, dot := dot } }
    let r := { s with params := { Params.default with sched := .lockstep }, cpuPos := .decode }
    (s.cpuPos = .top ∧ s.beforeDecode.others.stepMode = true ∧ s.cpuCanStep = true) ∧
      (s.ppu.parked = false ∧ s.stepMode = true ∧ s.ppu.pos = .oamSearch .start) ∧
      (at' (.vBlank .lineStart) 0).ppu.pos ∉ [PpuPos.oamSearch .start, .vBlank .start] ∧
      (at' (.vBlank .hold) 113).ppu.pos ∉
        [PpuPos.oamSearch .start, .pixelTransfer .start, .hBlank .start, .vBlank .start, .vBlank .lineStart] ∧
      ((at' (.vBlank .hold) 113).ppu.pos.isHold = true ∧
        (at' (.vBlank .hold) 113).ppu.dot + 1 = (at' (.vBlank .hold) 113).ppuBudget ∧
        (at' (.vBlank .hold) 112).ppu.dot + 1 ≠ (at' (.vBlank .hold) 112).ppuBudget) ∧
      (s.timer.parked = false ∧ s.timer.pos = .blocked ∧ (TimerPos.readTma ≠ .blocked ∧ TimerPos.readTma ≠ .counting)) ∧
      (r.hostPos = .idle ∧ r.params.sched = .lockstep ∧ r.cpuPos = .decode ∧ r.cpuParked = false ∧
        r.ppu.parked = false) ∧
      (let u := { s with stepMode := false }; u.ppu.parked = false ∧ u.timer.parked = false ∧ u.stepMode = false) ∧
      (p.hostPos = .idle ∧ p.cpuParked = true ∧ p.timer.parked = true ∧ p.ppu.parked = true ∧ p.turns = []) := by
  decide +kernel

/-- A launch record on a line in a mode. -/
def record (ly : Byte) (stat : BitVec 7) : LaunchRecord :=
  { regs := bare, ime := false, imeDelay := 0, halted := false, cpuFault := none,
    io := { IoRegs.reset with ly := ly, stat := stat }, mem := [], joypad := State.reset.joypad,
    params := Params.default }

/-- What breaks an invariant of the state. -/
def badRecord (r : LaunchRecord) : Bool :=
  153 < r.io.ly.toNat || (144 ≤ r.io.ly.toNat && r.io.mode != 1) ||
    (1 ≤ r.io.ly.toNat && r.io.ly.toNat ≤ 143 && r.io.mode == 1) || r.regs.f.toNat % 16 != 0 || r.imeDelay != 0 ||
    r.cpuFault.isSome || !Memory.wf r.mem

theorem witness_Launch :
    (badRecord (record 154 1) = true ∧ badRecord (record 153 0) = true ∧ badRecord (record 144 2) = true ∧
      badRecord (record 143 1) = true ∧ badRecord (record 1 1) = true ∧
      badRecord { record 0 2 with mem := [(0xE000, 1)] } = true ∧
      badRecord { record 0 2 with regs := { bare with f := 0x01 } } = true ∧
      badRecord { record 0 2 with imeDelay := 1 } = true ∧
      badRecord { record 0 2 with halted := true, cpuFault := some (.stopUnimplemented 0) } = true) ∧
    badRecord (record 153 1) = false ∧ badRecord (record 144 1) = false ∧ badRecord (record 143 0) = false ∧
    badRecord (record 0 1) = false := by decide +kernel

/-- R421: the record of the launch values is launched into the launch state. -/
theorem test_launch_default :
    launch { record 0 5 with regs := State.reset.regs } = .next State.reset := rfl

/-- U24 and R424: a record whose `F` has a non-zero low nibble is refused; a snapshot's `AF` is masked. -/
theorem test_launch_flags :
    launch { record 0 2 with regs := { bare with f := 0x01 } } = .refused .launchRecord ∧
      Snapshot.record ⟨0x0100, 0xFFFE, 0x01BF, 0, 0, 0, false, false, IoRegs.reset, [], State.reset.joypad, Params.default⟩
        = { record 0 5 with regs := { bare with a := 0x01, f := 0xB0, pc := 0x0100, sp := 0xFFFE } } := ⟨rfl, rfl⟩

/-- A state that has the invariant, away from reset, and takes a step. -/
theorem witness_StepKeepsInv :
    let s := start { bare with f := 0xB0 } [0x76] [(0xC000, 0x12)]
    Inv s ∧ step s = .next (after s) := by
  refine ⟨?_, step_after _ (by decide +kernel)⟩
  constructor
  all_goals first
    | decide +kernel
    | exact ⟨by decide +kernel, by decide +kernel⟩
    | trivial

end Sys2Proof.Tests
end

section
/-! PROOF. What every step keeps. A step is built from atomic actions of the agents and, where the CPU can
move, one iteration of it; so a `Stable` property that an iteration keeps is kept by every step. -/

namespace Sys2Proof.Machine

/-! ## A stable property and the step -/

/-- An answer continued by `k` is a next state exactly where the answer was one and `k` gives it. -/
theorem Answer.andThen_eq_next {o : Answer} {k : State → Answer} {t : State} :
    o.andThen k = .next t ↔ ∃ u, o = .next u ∧ k u = .next t := by
  cases o <;> simp [Answer.andThen]

/-- An iteration of the CPU that can move leads from a state with `P` to a state with `P` only. -/
def IterationKeeps (P : State → Prop) : Prop :=
  ∀ s t : State, P s → s.cpuCanStep = true → s.iteration = .next t → P t

namespace Stable

variable {P : State → Prop} {s t : State}

theorem referencePass (st : Stable P) (it : IterationKeeps P) (h : P s) (e : s.referencePass = .next t) : P t := by
  unfold State.referencePass at e
  split at e
  next can =>
    obtain ⟨u, hu, rfl⟩ : ∃ u, s.iteration = .next u ∧ _ = t := by simpa [Answer.andThen_eq_next] using e
    exact st.engineCycles _ _ (it s u h can hu)
  next =>
    cases e
    exact st.engineCycles _ _ h

theorem freeStep (st : Stable P) (it : IterationKeeps P) (h : P s) (e : s.freeStep = .next t) : P t := by
  unfold State.freeStep at e
  split at e
  next => exact st.referencePass it (st.settle h) e
  next =>
    split at e
    next can => exact it s t h can e
    next => cases e; exact st.turns s _ h
  next => cases e; exact st.perform _ (st.turns s _ h)

/-- A stable property that the CPU's iteration keeps is kept by every step, under both schedules. -/
theorem step (st : Stable P) (it : IterationKeeps P) (h : P s) (e : Machine.step s = .next t) : P t := by
  unfold Machine.step at e
  split at e
  next => exact st.referencePass it (st.settle (st.hostInputs _ h)) e
  next => exact st.freeStep it h e

theorem and {Q : State → Prop} (p : Stable P) (q : Stable Q) : Stable (fun s => P s ∧ Q s) where
  poke := fun s a v h => ⟨p.poke s a v h.1, q.poke s a v h.2⟩
  ppuMove := fun s h => ⟨p.ppuMove s h.1, q.ppuMove s h.2⟩
  timerMove := fun s h => ⟨p.timerMove s h.1, q.timerMove s h.2⟩
  divCycle := fun s h => ⟨p.divCycle s h.1, q.divCycle s h.2⟩
  raiseIf := fun s i h => ⟨p.raiseIf s i h.1, q.raiseIf s i h.2⟩
  fireIrq := fun s h => ⟨p.fireIrq s h.1, q.fireIrq s h.2⟩
  turns := fun s ts h => ⟨p.turns s ts h.1, q.turns s ts h.2⟩
  draws := fun s n h => ⟨p.draws s n h.1, q.draws s n h.2⟩
  hostPos := fun s b h => ⟨p.hostPos s b h.1, q.hostPos s b h.2⟩
  joypad := fun s j h => ⟨p.joypad s j h.1, q.joypad s j h.2⟩
  pause := fun s h => ⟨p.pause s h.1, q.pause s h.2⟩
  resume := fun s h => ⟨p.resume s h.1, q.resume s h.2⟩
  parkPpu := fun s h => ⟨p.parkPpu s h.1, q.parkPpu s h.2⟩
  parkTimer := fun s h => ⟨p.parkTimer s h.1, q.parkTimer s h.2⟩
  dot := fun s n h => ⟨p.dot s n h.1, q.dot s n h.2⟩

end Stable

/-! ## Properties of the CPU's own state -/

theorem SameCore.refl (s : State) : SameCore s s := ⟨rfl, rfl, rfl, rfl, rfl, rfl, rfl, rfl⟩

theorem SameCore.trans {s t u : State} (h : SameCore s t) (k : SameCore t u) : SameCore s u :=
  ⟨k.1.trans h.1, k.2.trans h.2, k.3.trans h.3, k.4.trans h.4, k.5.trans h.5, k.6.trans h.6, k.7.trans h.7,
    k.8.trans h.8⟩

theorem SameCpu.core {s t : State} (h : SameCpu s t) : SameCore s t :=
  ⟨h.regs, h.ime, h.imeDelay, h.halted, h.cpuFault, h.cpuPos, h.cycles, h.params⟩

/-- No atomic action of another agent touches the CPU's own state, so what depends on that alone is stable. -/
theorem stable_of_sameCore {P : State → Prop} (hP : ∀ {s t : State}, SameCore s t → P s → P t) : Stable P where
  poke := fun s a v => hP (sameCpu_poke s a v).core
  ppuMove := fun s => hP (sameCpu_ppuMove s).core
  timerMove := fun s => hP (sameCpu_timerMove s).core
  divCycle := fun s => hP (sameCpu_divCycle s).core
  raiseIf := fun s i => hP (sameCpu_raiseIf s i).core
  fireIrq := fun s => hP (sameCpu_fireIrq s).core
  turns := fun _ _ => hP ⟨rfl, rfl, rfl, rfl, rfl, rfl, rfl, rfl⟩
  draws := fun _ _ => hP ⟨rfl, rfl, rfl, rfl, rfl, rfl, rfl, rfl⟩
  hostPos := fun _ _ => hP ⟨rfl, rfl, rfl, rfl, rfl, rfl, rfl, rfl⟩
  joypad := fun _ _ => hP ⟨rfl, rfl, rfl, rfl, rfl, rfl, rfl, rfl⟩
  pause := fun _ => hP ⟨rfl, rfl, rfl, rfl, rfl, rfl, rfl, rfl⟩
  resume := fun _ => hP ⟨rfl, rfl, rfl, rfl, rfl, rfl, rfl, rfl⟩
  parkPpu := fun _ => hP ⟨rfl, rfl, rfl, rfl, rfl, rfl, rfl, rfl⟩
  parkTimer := fun _ => hP ⟨rfl, rfl, rfl, rfl, rfl, rfl, rfl, rfl⟩
  dot := fun _ _ => hP ⟨rfl, rfl, rfl, rfl, rfl, rfl, rfl, rfl⟩

end Sys2Proof.Machine
end

section
/-! PROOF. A faulted CPU takes no further step (O37). -/

namespace Sys2Proof.Machine

theorem cpuCanStep_of_fault {s : State} (h : s.cpuFault ≠ none) : s.cpuCanStep = false := by
  obtain ⟨e, he⟩ := Option.ne_none_iff_exists'.1 h
  simp [State.cpuCanStep, he]

/-- R30, R320: a step from a faulted state leaves the CPU's own state alone, because no iteration is enabled. -/
theorem sameCore_step_of_fault {s t : State} (h : s.cpuFault ≠ none) (e : step s = .next t) : SameCore s t := by
  have st : Stable (SameCore s) := stable_of_sameCore fun k hs => hs.trans k
  refine st.step (fun u v hu can _ => ?_) (SameCore.refl s) e
  rw [cpuCanStep_of_fault (hu.cpuFault ▸ h)] at can
  cases can

/-- Settles O37: every state the agents can reach in the step has the same state of the CPU's own. -/
theorem faultIsFinal : Obligations.FaultIsFinal := by
  unfold Obligations.FaultIsFinal
  intro s t e h
  have k := sameCore_step_of_fault h e
  exact ⟨k.cpuFault, k.regs, k.ime, k.imeDelay, k.halted, k.cycles⟩

end Sys2Proof.Machine
end

section
/-! PROOF. Every step keeps the invariant (O59): the actions of the other agents do, and an iteration of the CPU does,
through a predicate that holds while the CPU is inside one. -/

namespace Sys2Proof.Machine

/-! ## Decoding and executing -/

/-- R300 steps 4 to 7, R323: the first byte is read; then the CPU faults, or reads the rest of the instruction's bytes
and either executes an instruction and counts toward the open gate, or faults. -/
theorem decodeAndExecute_cases {s t : State} (h : s.decodeAndExecute = .next t) :
    t = s.afterRead.raiseFault (.decodeOutOfBounds s.regs.pc) ∨
    ∃ n, t = (s.afterRead.readCode (s.regs.pc + 1) n).2.raiseFault (.decodeOutOfBounds s.regs.pc) ∨
      ∃ i u, exec i (s.afterRead.readCode (s.regs.pc + 1) n).2 = .next u ∧ t = u.countImeDelay := by
  unfold State.decodeAndExecute at h
  dsimp only at h
  split at h
  · cases h
    exact .inl rfl
  · refine .inr ⟨opLength (s.yield.peek s.regs.pc) - 1, ?_⟩
    split at h
    next i _ _ =>
      obtain ⟨u, hu, counted⟩ := Answer.andThen_eq_next.1 h
      cases counted
      exact .inr ⟨i, u, hu, rfl⟩
    next =>
      cases h
      exact .inl rfl

/-! ## The invariant between two actions of an iteration -/

/-- What holds while the CPU is inside an iteration: the invariant, and the CPU is not parked. -/
def Going (s : State) : Prop := (EnginePart s ∧ CpuPart s) ∧ s.cpuParked = false

theorem stable_cpu : Stable CpuPart := stable_of_sameCore fun k h => cpu_core h k

theorem divCycle_parked (s : State) : s.divCycle.cpuParked = s.cpuParked := by
  unfold State.divCycle
  split
  · split <;> rfl
  · rfl

theorem stable_unparked : Stable (fun s => s.cpuParked = false) where
  poke := fun s a v h => (poke_parked s a v).trans h
  ppuMove := fun s h => (ppuMove_parked s).trans h
  timerMove := fun s h => (timerMove_parked s).trans h
  divCycle := fun s h => (divCycle_parked s).trans h
  raiseIf := fun _ _ h => h
  fireIrq := fun _ h => h
  turns := fun _ _ h => h
  draws := fun _ _ h => h
  hostPos := fun _ _ h => h
  joypad := fun _ _ h => h
  pause := fun _ h => h
  resume := fun _ _ => rfl
  parkPpu := fun _ h => h
  parkTimer := fun _ h => h
  dot := fun _ _ h => h

theorem stable_going : Stable Going := (stable_eng.and stable_cpu).and stable_unparked

theorem stable_inv : Stable Inv := by
  have e : Inv = fun s => EnginePart s ∧ CpuPart s ∧ Parked s := funext fun s => propext (inv_iff s)
  rw [e]
  exact stable_eng.and (stable_cpu.and stable_parked)

/-- What an instruction makes of the gate and its countdown is within their ranges (R28). -/
theorem Gate.ranges {i : Instr} {s : State} {ime : Bool} {d : Nat} (gate : Gate i s ime d) (h : CpuPart s) :
    d ≤ 2 ∧ (d ≠ 0 → ime = false) ∧ (s.params.eiDelay = false → d = 0) := by
  cases gate with
  | kept => exact ⟨h.delayRange, h.delayGate, h.delayParam⟩
  | shut => exact ⟨by omega, fun _ => rfl, fun _ => rfl⟩
  | opened => exact ⟨by omega, fun running => absurd rfl running, fun _ => rfl⟩
  | counted _ delayed => exact ⟨by omega, fun _ => rfl, fun undelayed => by rw [delayed] at undelayed; cases undelayed⟩
  | atOnce _ undelayed =>
    have still : s.imeDelay = 0 := h.delayParam undelayed
    exact ⟨h.delayRange, fun running => absurd still running, fun _ => still⟩

namespace Going

variable {s t : State}

theorem inv (h : Going s) : Inv s :=
  (inv_iff s).2 ⟨h.1.1, h.1.2, fun p => by rw [h.2] at p; cases p⟩

theorem of_inv (h : Inv s) (unparked : s.cpuParked = false) : Going s :=
  ⟨⟨((inv_iff s).1 h).1, ((inv_iff s).1 h).2.1⟩, unparked⟩

/-- A change of the CPU's registers that keeps the low nibble of `F` zero, and of the cycle counter. -/
theorem withCpu (h : Going s) (g : Regs) (n : Nat) (low : g.f &&& 0x0F = 0) : Going (s.withCpu g n) := by
  obtain ⟨⟨eng, cpu⟩, unparked⟩ := h
  exact ⟨⟨eng_cpu s _ eng rfl rfl rfl rfl rfl rfl, low, cpu.delayRange, cpu.delayGate, cpu.delayParam⟩, unparked⟩

/-- A change of the interrupt gate and its countdown within their ranges. -/
theorem withGate (h : Going s) (ime : Bool) (d : Nat) (range : d ≤ 2) (gate : d ≠ 0 → ime = false)
    (param : s.params.eiDelay = false → d = 0) : Going { s with ime := ime, imeDelay := d } := by
  obtain ⟨⟨eng, cpu⟩, unparked⟩ := h
  exact ⟨⟨eng_cpu s _ eng rfl rfl rfl rfl rfl rfl, cpu.flagsLow, range, gate, param⟩, unparked⟩

/-- A change of the halt, the interrupt-received latch, the fault and the position in the iteration. -/
theorem withControl (h : Going s) (halted irq : Bool) (e : Option CpuFault) (p : CpuPos) :
    Going { s with halted := halted, irqLatch := irq, cpuFault := e, cpuPos := p } := by
  obtain ⟨⟨eng, cpu⟩, unparked⟩ := h
  exact ⟨⟨eng_cpu s _ eng rfl rfl rfl rfl rfl rfl, cpu.flagsLow, cpu.delayRange, cpu.delayGate, cpu.delayParam⟩,
    unparked⟩

theorem raiseFault (h : Going s) (e : CpuFault) : Going (s.raiseFault e) :=
  h.withControl s.halted s.irqLatch (some e) s.cpuPos

/-! ## The steps of an iteration -/

/-- Step 1 (R308). -/
theorem wake (h : Going s) : Going s.wake := by
  unfold State.wake
  split
  · exact (stable_going.yield h).withControl false false s.yield.cpuFault s.yield.cpuPos
  · exact h

/-- A push (R170): two stores, and `SP` two lower. -/
theorem push16 (h : Going s) (v : Word) : Going (s.push16 v) := by
  rw [push16_eq]
  exact (stable_going.afterWrite _ _ (stable_going.afterWrite _ _ h)).withCpu _ _ h.1.2.flagsLow

/-- Interrupt entry (R310): a push, the vector, the request cleared, the gate closed. -/
theorem interruptEntry (h : Going s) (i : Nat) : Going (s.interruptEntry i) := by
  have pushed := h.push16 s.regs.pc
  have vectored : Going ((s.push16 s.regs.pc).setPc (vector i)) := pushed.withCpu _ _ pushed.1.2.flagsLow
  obtain ⟨⟨eng, cpu⟩, unparked⟩ := stable_going.yield vectored
  have cleared : Going (((s.push16 s.regs.pc).setPc (vector i)).yield.ioAnd 0xFF0F#16 (~~~(intMask i))) :=
    ⟨⟨eng_io _ _ eng rfl rfl, cpu_same cpu (sameCpu_ioAnd _ _ _)⟩, unparked⟩
  have shut := cleared.withGate false _ cleared.1.2.delayRange (fun _ => rfl) cleared.1.2.delayParam
  exact shut.withCpu _ _ shut.1.2.flagsLow

/-- Step 2 (R309). -/
theorem checkInterrupts (h : Going s) : Going s.checkInterrupts := by
  have read : Going s.afterRead.afterRead := stable_going.afterRead (stable_going.afterRead h)
  unfold State.checkInterrupts
  dsimp only
  split
  · exact interruptEntry read _
  · exact read

/-- Step 6 (R272): the count stays in its range, and opens the gate only as it ends. -/
theorem countImeDelay (h : Going s) : Going s.countImeDelay := by
  obtain ⟨-, range, gate, param⟩ := h.1.2
  unfold State.countImeDelay
  split
  next counts =>
    obtain ⟨-, running⟩ : s.cpuFault = none ∧ s.imeDelay ≠ 0 := by simpa using counts
    have shut : s.ime = false := gate running
    refine h.withGate _ _ (by omega) (fun d => ?_) (fun p => by rw [param p])
    have : s.imeDelay ≠ 1 := by omega
    simp [shut, this]
  next => exact h

/-- An effect of an instruction keeps the invariant and does not park the CPU. -/
theorem of_effect {i : Instr} (h : Going s) (k : Effect i s t) : Going t := by
  cases k with
  | fault e => exact h.raiseFault e
  | ran acts g ime d halted _ low gate _ =>
    obtain ⟨range, shut, param⟩ := gate.ranges h.1.2
    have bus : Going (runBus acts s) := stable_going.runBus acts h
    have regs := bus.withCpu g (s.cycles + i.cost s.regs.f) (low h.1.2.flagsLow)
    have gated := regs.withGate ime d range shut ((sameCore_runBus acts s).params ▸ param)
    exact gated.withControl halted _ _ _

/-- Every instruction, `prefixCb` included. -/
theorem of_exec {i : Instr} (h : Going s) (e : exec i s = .next t) : Going t := by
  by_cases hi : i = .prefixCb
  · subst hi
    rcases exec_prefixCb s with ⟨_, faults⟩ | ⟨_, runs⟩
    · rw [faults] at e
      cases e
      exact h.raiseFault _
    · exact (stable_going.afterRead h).of_effect (effect_of_exec (prefixedInstr_ne _) (runs ▸ e))
  · exact h.of_effect (effect_of_exec hi e)

/-- Steps 4 to 7. -/
theorem of_decodeAndExecute (h : Going s) (e : s.decodeAndExecute = .next t) : Going t := by
  have read : Going s.afterRead := stable_going.afterRead h
  rcases decodeAndExecute_cases e with rfl | ⟨n, rfl | ⟨i, u, hu, rfl⟩⟩
  · exact read.raiseFault _
  · exact (stable_going.readCode _ n read).raiseFault _
  · exact ((stable_going.readCode _ n read).of_exec hu).countImeDelay

end Going

/-! ## The iteration and the step -/

/-- An iteration either parks the CPU before its decode or leaves it unparked. -/
theorem iterationKeeps_inv : IterationKeeps Inv := by
  intro s t h can e
  have unparked : s.cpuParked = false := by
    simp only [State.cpuCanStep, Bool.and_eq_true, Bool.not_eq_true'] at can
    exact can.1.2
  have going : Going s := .of_inv h unparked
  unfold State.iteration at e
  split at e
  next =>
    have atTop : Going { s with cpuPos := .top } := going.withControl s.halted s.irqLatch s.cpuFault .top
    exact (atTop.of_decodeAndExecute e).inv
  next =>
    have before : Going s.beforeDecode.others := stable_going.others going.wake.checkInterrupts
    dsimp only at e
    split at e
    · cases e
      obtain ⟨⟨eng, cpu⟩, -⟩ := before
      exact (inv_iff _).2 ⟨eng_cpu _ _ eng rfl rfl rfl rfl rfl rfl,
        ⟨cpu.flagsLow, cpu.delayRange, cpu.delayGate, cpu.delayParam⟩, fun _ => rfl⟩
    · exact (before.of_decodeAndExecute e).inv

/-- Settles O59: the other agents' actions keep the invariant, and so does an iteration of the CPU. -/
theorem stepKeepsInv : Obligations.StepKeepsInv := by
  unfold Obligations.StepKeepsInv
  intro s t h e
  exact stable_inv.step iterationKeeps_inv h e

end Sys2Proof.Machine
end

section
/-! PROOF. The registers: a pair is a view of two of them (O5). -/

namespace Sys2Proof.Machine

/-- A write of `F` clears its low four bits (R24). -/
theorem maskF_eq : ∀ v : Byte, maskF v = BitVec.ofNat 8 (v.toNat / 16 * 16) := by decide +kernel

theorem joined_hi_maskF_lo (v : Word) : joined (hi v) (maskF (lo v)) = v &&& 0xFFF0 := by
  have split : joined (hi v) (lo v) &&& joined (BitVec.allOnes 8) 0xF0
      = joined (hi v &&& BitVec.allOnes 8) (lo v &&& 0xF0) := BitVec.and_append
  rw [joined_hi_lo, BitVec.and_allOnes] at split
  exact split.symm

/-- R22: what a pair reads as after a write of it. -/
theorem Regs.r16_setR16 (g : Regs) (v : Word) :
    (∀ rr : Reg16, rr ≠ .af → (g.setR16 rr v).r16 rr = v) ∧ (g.setR16 .af v).r16 .af = v &&& 0xFFF0 := by
  refine ⟨fun rr h => ?_, joined_hi_maskF_lo v⟩
  cases rr with
  | bc | de | hl => exact joined_hi_lo v
  | sp => rfl
  | af => exact absurd rfl h

/-- Settles O5: the bytes of a pair are its high and its low byte. -/
theorem registerPairs : Obligations.RegisterPairs := by
  unfold Obligations.RegisterPairs
  intro g
  refine ⟨joined_toNat .., joined_toNat .., joined_toNat .., joined_toNat .., rfl, fun v => ?reads, fun v => ?writes,
    ⟨rfl, rfl, rfl, rfl, rfl, rfl, rfl⟩, fun r r' v => ?single⟩
  case reads =>
    obtain ⟨full, masked⟩ := g.r16_setR16 v
    exact ⟨full .bc nofun, full .de nofun, full .hl nofun, full .sp nofun, masked⟩
  case writes =>
    have flags : maskF (lo v) = BitVec.ofNat 8 (v.toNat % 256 / 16 * 16) := by
      rw [maskF_eq, lo_eq, BitVec.toNat_ofNat, Nat.mod_mod]
    rw [← hi_eq, ← lo_eq, ← flags]
    exact ⟨rfl, rfl, rfl, rfl, rfl⟩
  case single =>
    exact ⟨g.r8_setR8 r v, g.r8_setR8_other r r' v, g.setR8_f r v, g.setR8_sp r v, g.setR8_pc r v⟩

end Sys2Proof.Machine
end

section
/-! PROOF. What the designated registers read as (O43). -/

namespace Sys2Proof.Machine

/-! ## A read of a designated register -/

/-- R69: a bus read is the stored byte with the unimplemented bits put in. -/
theorem peek_eq (s : State) (a : Word) : s.peek a = s.stored a ||| (s.unusedBits &&& unimplementedAt a) := by
  unfold State.peek
  split
  next none => simp [none]
  next => rfl

/-- R48, R62: the address of a designated register of the I/O page reaches that register. -/
theorem stored_at (s : State) {n : IoName} (h : n ≠ .ie) : s.stored n.at = s.ioImplemented n := by
  cases n
  case ie => exact absurd rfl h
  all_goals rfl

theorem unimplementedAt_at (n : IoName) : unimplementedAt n.at = n.unimplemented := by cases n <;> rfl

theorem peek_at (s : State) {n : IoName} (h : n ≠ .ie) :
    s.peek n.at = s.ioImplemented n ||| (s.unusedBits &&& n.unimplemented) := by
  rw [peek_eq, stored_at s h, unimplementedAt_at]

/-- R36 to R47: a register without unimplemented bits reads as the byte it stores. -/
theorem peek_at_full (s : State) (n : IoName) (h : n ≠ .ie) (hp : n ≠ .p1) (full : n.unimplemented = 0) :
    s.peek n.at = s.io.get n := by
  have implemented : s.ioImplemented n = s.io.get n := by
    cases n
    case p1 => exact absurd rfl hp
    all_goals rfl
  rw [peek_at s h, full, implemented]
  simp

theorem unusedBits_of_ones {s : State} (h : s.params.unusedIoBits = .ones) : s.unusedBits = 0xFF := by
  simp [State.unusedBits, h]

/-! ## Stored bits below unimplemented ones -/

/-- The low bits of a byte made of `k` stored bits and others above them are the stored ones. -/
theorem toNat_mod_of_high {k : Nat} (hk : k ≤ 8) (x : BitVec k) (u m : Byte) (hm : m.toNat % 2 ^ k = 0) :
    (x.setWidth 8 ||| (u &&& m)).toNat % 2 ^ k = x.toNat := by
  have fits : x.toNat < 2 ^ 8 := Nat.lt_of_lt_of_le x.isLt (Nat.pow_le_pow_right (by decide) hk)
  rw [BitVec.toNat_or, BitVec.toNat_and, BitVec.toNat_setWidth, Nat.mod_eq_of_lt fits, Nat.or_mod_two_pow,
    Nat.and_mod_two_pow, hm, Nat.and_zero, Nat.or_zero, Nat.mod_eq_of_lt x.isLt]

/-- The bits above the stored ones are the others. -/
theorem toNat_div_of_high {k : Nat} (hk : k ≤ 8) (x : BitVec k) (m : Byte) :
    (x.setWidth 8 ||| m).toNat / 2 ^ k = m.toNat / 2 ^ k := by
  have fits : x.toNat < 2 ^ 8 := Nat.lt_of_lt_of_le x.isLt (Nat.pow_le_pow_right (by decide) hk)
  rw [BitVec.toNat_or, BitVec.toNat_setWidth, Nat.mod_eq_of_lt fits, Nat.or_div_two_pow,
    Nat.div_eq_of_lt x.isLt, Nat.zero_or]

/-! ## `P1` -/

/-- R35: an input bit of `P1` is 0 exactly for a key that is down on a selected line. -/
theorem keyLines_bits (s : State) :
    (s.keyLines.getLsbD 0 = !((!s.io.p1Sel.getLsbD 0 && s.joypad.right) || (!s.io.p1Sel.getLsbD 1 && s.joypad.a))) ∧
    (s.keyLines.getLsbD 1 = !((!s.io.p1Sel.getLsbD 0 && s.joypad.left) || (!s.io.p1Sel.getLsbD 1 && s.joypad.b))) ∧
    (s.keyLines.getLsbD 2 = !((!s.io.p1Sel.getLsbD 0 && s.joypad.up) || (!s.io.p1Sel.getLsbD 1 && s.joypad.select))) ∧
    (s.keyLines.getLsbD 3 = !((!s.io.p1Sel.getLsbD 0 && s.joypad.down) || (!s.io.p1Sel.getLsbD 1 && s.joypad.start)))
      := by
  have line : ∀ (c : Bool) (m : Byte) (i : Nat), (if c = true then 0 else m).getLsbD i = (!c && m.getLsbD i) := by
    intro c m i; cases c <;> simp
  simp only [State.keyLines, BitVec.getLsbD_or, line, beq_false]
  simp

/-- R35: the input bits of `P1` are its low four. -/
theorem keyLines_lt (s : State) : s.keyLines.toNat < 2 ^ 4 := by
  have line : ∀ (c : Bool) (m : Byte), m.toNat < 2 ^ 4 → (if c = true then 0 else m).toNat < 2 ^ 4 := by
    intro c m h
    split
    · decide
    · exact h
  simp only [State.keyLines, BitVec.toNat_or]
  refine Nat.or_lt_two_pow (Nat.or_lt_two_pow (Nat.or_lt_two_pow ?_ ?_) ?_) ?_ <;> exact line _ _ (by decide)

theorem peek_p1 (s : State) :
    s.peek 0xFF00 = s.io.p1Sel.setWidth 8 <<< 4 ||| s.keyLines ||| (s.unusedBits &&& 0xC0) :=
  peek_at s (n := .p1) nofun

/-- The input bits are no other bits of `P1`. -/
theorem peek_p1_low (s : State) {i : Nat} (h : i < 4) : (s.peek 0xFF00).getLsbD i = s.keyLines.getLsbD i := by
  have unused : (0xC0 : Byte).getLsbD i = false := by
    revert i; decide
  rw [peek_p1, BitVec.getLsbD_or, BitVec.getLsbD_or, BitVec.getLsbD_and, unused, BitVec.getLsbD_shiftLeft]
  simp [h]

/-- Above them stand the select bits, and the unimplemented ones. -/
theorem peek_p1_high (s : State) :
    (s.peek 0xFF00).toNat / 2 ^ 4 = s.io.p1Sel.toNat ||| (s.unusedBits &&& 0xC0).toNat / 2 ^ 4 := by
  have sel : (s.io.p1Sel.setWidth 8 <<< 4).toNat / 2 ^ 4 = s.io.p1Sel.toNat := by
    have := s.io.p1Sel.isLt
    rw [BitVec.toNat_shiftLeft, BitVec.toNat_setWidth, Nat.shiftLeft_eq]
    omega
  rw [peek_p1, BitVec.toNat_or, BitVec.toNat_or, Nat.or_div_two_pow, Nat.or_div_two_pow, sel,
    Nat.div_eq_of_lt (keyLines_lt s), Nat.or_zero]

/-- R35: the select bits of `P1` read as stored. -/
theorem peek_p1_select (s : State) : (s.peek 0xFF00).toNat / 16 % 4 = s.io.p1Sel.toNat := by
  have unused : (s.unusedBits &&& 0xC0).toNat / 2 ^ 4 % 2 ^ 2 = 0 := by
    rw [BitVec.toNat_and, Nat.and_div_two_pow, Nat.and_mod_two_pow]
    exact Nat.and_zero _
  have high := congrArg (· % 2 ^ 2) (peek_p1_high s)
  simp only [Nat.or_mod_two_pow, unused, Nat.or_zero, Nat.mod_eq_of_lt s.io.p1Sel.isLt] at high
  exact high

/-- R34: under `UNUSED_IO_BITS = ones` the unimplemented bits of `P1` are 1. -/
theorem peek_p1_unused (s : State) (h : s.params.unusedIoBits = .ones) : (s.peek 0xFF00).toNat / 64 = 3 := by
  have high := congrArg (· / 2 ^ 2) (peek_p1_high s)
  simp only [Nat.or_div_two_pow, Nat.div_eq_of_lt s.io.p1Sel.isLt, unusedBits_of_ones h, Nat.zero_or] at high
  rw [show 64 = 2 ^ 4 * 2 ^ 2 from rfl, ← Nat.div_div_eq_div_mul]
  exact high

/-! ## The claim -/

/-- Settles O43, register by register. -/
theorem registerReads : Obligations.RegisterReads := by
  unfold Obligations.RegisterReads
  intro s
  have tac : s.peek 0xFF07 = s.io.tac.setWidth 8 ||| (s.unusedBits &&& 0xF8) := peek_at s (n := .tac) nofun
  have ifr : s.peek 0xFF0F = s.io.ifr.setWidth 8 ||| (s.unusedBits &&& 0xE0) := peek_at s (n := .ifr) nofun
  have stat : s.peek 0xFF41 = s.io.stat.setWidth 8 ||| (s.unusedBits &&& 0x80) := peek_at s (n := .stat) nofun
  refine ⟨?full, ?tac, ?ifr, ?stat, peek_p1_select s, fun h => ?ones, ?keys⟩
  case full =>
    have full := peek_at_full s
    exact ⟨full .tima nofun nofun rfl, full .tma nofun nofun rfl, full .lcdc nofun nofun rfl,
      full .scy nofun nofun rfl, full .scx nofun nofun rfl, full .ly nofun nofun rfl, full .lyc nofun nofun rfl,
      full .bgp nofun nofun rfl, full .obp0 nofun nofun rfl, full .obp1 nofun nofun rfl, full .wy nofun nofun rfl,
      full .wx nofun nofun rfl, rfl⟩
  case tac => rw [tac]; exact toNat_mod_of_high (by decide) _ _ _ (by decide)
  case ifr => rw [ifr]; exact toNat_mod_of_high (by decide) _ _ _ (by decide)
  case stat => rw [stat]; exact toNat_mod_of_high (by decide) _ _ _ (by decide)
  case ones =>
    rw [tac, ifr, stat, unusedBits_of_ones h]
    exact ⟨toNat_div_of_high (by decide) _ _, toNat_div_of_high (by decide) _ _, toNat_div_of_high (by decide) _ _,
      peek_p1_unused s h⟩
  case keys =>
    rw [peek_p1_low s (by decide), peek_p1_low s (by decide), peek_p1_low s (by decide), peek_p1_low s (by decide)]
    exact keyLines_bits s

end Sys2Proof.Machine
end

section
/-! PROOF. The routing table (O40). -/

namespace Sys2Proof.Machine

/-- No address is in the ranges of two regions. -/
theorem Region.eq_of_mem_ranges {r r' : Region} {k : Nat} (h : r.range.1 ≤ k ∧ k < r.range.2)
    (h' : r'.range.1 ≤ k ∧ k < r'.range.2) : r = r' := by
  cases r <;> cases r' <;> simp only [Region.range, reduceCtorEq] at h h' ⊢ <;> omega

/-- R62: the region of an address is the one whose range holds it. -/
theorem region_eq_iff (a : Word) (r : Region) : region a = r ↔ r.range.1 ≤ a.toNat ∧ a.toNat < r.range.2 :=
  ⟨range_of, Region.eq_of_mem_ranges (region_range a)⟩

/-- Settles O40: the table gives the first address and the last address of each range. -/
theorem routing : Obligations.Routing := by
  unfold Obligations.Routing
  intro a
  have small := a.isLt
  simp only [region_eq_iff, Region.range]
  refine ⟨?_, ?_, ?_, ?_, ?_, ?_, ?_, ?_, ?_, ?_⟩ <;> omega

end Sys2Proof.Machine
end

section
/-! PROOF. Reads after writes, dropped writes and the sentinel (O41). -/

namespace Sys2Proof.Machine

section
variable {a b : Word}

/-! ## Plain storage and the cartridge's windows as regions -/

/-- A region of plain read and write storage (R173). -/
def Region.isPlain : Region → Bool
  | .vram | .wram | .wramAlias | .oam | .hram => true
  | _ => false

theorem isPlain_eq (a : Word) : isPlain a = (region a).isPlain := by
  have range := region_range a
  rw [Bool.eq_iff_iff]
  unfold Machine.isPlain
  cases h : region a <;> simp only [h, Region.range] at range <;> simp [Region.isPlain] <;> omega

theorem region_of_isCart (h : isCart a = true) : region a = .cartRom ∨ region a = .cartRam := by
  simp only [isCart, Bool.or_eq_true, Bool.and_eq_true, decide_eq_true_eq] at h
  simp only [region_eq_iff, Region.range]
  omega

theorem storageKey_wramAlias (h : region a = .wramAlias) : storageKey a = a.toNat - 0x2000 := by
  simp [storageKey, h]

theorem storageKey_of_ne_wramAlias (h : region a ≠ .wramAlias) : storageKey a = a.toNat := by
  unfold storageKey
  split
  next hr => exact absurd hr h
  next => rfl

/-! ## Reads and writes of a region -/

/-- Only the I/O page has unimplemented bits. -/
theorem peek_of_not_io (s : State) (h : region a ≠ .io) : s.peek a = s.stored a := by
  have implemented : unimplementedAt a = 0 := by
    unfold unimplementedAt
    split
    next hr => exact absurd hr h
    next => rfl
  rw [State.peek, if_pos implemented]

theorem peek_reserved (s : State) (h : region a = .reserved) : s.peek a = 0xFF := by
  rw [peek_of_not_io s (by simp [h])]
  simp [State.stored, h]

theorem poke_reserved (s : State) (v : Byte) (h : region a = .reserved) : s.poke a v = s := by
  simp [State.poke, h]

theorem peek_flat_cartRam (s : State) (flat : s.params.cart = .flat) (h : region a = .cartRam) : s.peek a = 0xFF := by
  rw [peek_of_not_io s (by simp [h])]
  simp [State.stored, h, flat]

theorem poke_flat_cart (s : State) (v : Byte) (flat : s.params.cart = .flat) (h : isCart a = true) :
    s.poke a v = s := by
  have dropped : s.cartWrite a v = s := by simp [State.cartWrite, flat]
  rcases region_of_isCart h with hr | hr <;> simp [State.poke, hr, dropped]

theorem peek_plain (s : State) (h : isPlain a = true) : s.peek a = s.cell (storageKey a) := by
  rw [isPlain_eq] at h
  have notIo : region a ≠ .io := by
    intro hr
    simp [hr, Region.isPlain] at h
  rw [peek_of_not_io s notIo]
  cases hr : region a <;> simp [hr, Region.isPlain] at h <;> simp [State.stored, storageKey, hr]

theorem poke_plain (s : State) (v : Byte) (h : isPlain a = true) : s.poke a v = s.setCell (storageKey a) v := by
  rw [isPlain_eq] at h
  cases hr : region a <;> simp [hr, Region.isPlain] at h <;> simp [State.poke, storageKey, hr]

/-- A byte written to plain storage is read back at every address that reaches the same cell. -/
theorem peek_poke_plain (s : State) (v : Byte) (ha : isPlain a = true) (hb : isPlain b = true)
    (same : storageKey b = storageKey a) : (s.poke a v).peek b = v := by
  rw [peek_plain _ hb, poke_plain s v ha, same, cell_setCell_same]

/-- R62: a work RAM address below `0xDE00` and the one `0x2000` above it reach the same cell. -/
theorem storageKey_mirror (ha : region a = .wram) (low : a.toNat < 0xDE00) (hb : b.toNat = a.toNat + 0x2000) :
    isPlain b = true ∧ storageKey b = storageKey a := by
  have range := range_of ha
  have mirror : region b = .wramAlias := by
    simp only [region_eq_iff, Region.range] at range ⊢
    omega
  refine ⟨by simp [isPlain_eq, mirror, Region.isPlain], ?_⟩
  rw [storageKey_wramAlias mirror, storageKey_of_ne_wramAlias (by simp [ha])]
  omega

/-! ## Undesignated I/O bytes -/

theorem addr_mem_designatedAddresses {n : IoName} (h : n ≠ .ie) : n.addr ∈ designatedAddresses := by
  cases n
  case ie => exact absurd rfl h
  all_goals decide

/-- R49: an address of the I/O page that is not listed is no designated register's. -/
theorem ioName_undesignated (h : region a = .io) (other : a.toNat ∉ designatedAddresses) : ioName a.toNat = none := by
  rw [Option.eq_none_iff_forall_ne_some]
  intro n hn
  have at_n := ioName_addr hn
  refine other (at_n ▸ addr_mem_designatedAddresses ?_)
  rintro rfl
  have range := range_of h
  simp only [Region.range, IoName.addr] at range at_n
  omega

theorem peek_undesignated (s : State) (h : region a = .io) (unnamed : ioName a.toNat = none) :
    s.peek a = s.cell a.toNat := by
  simp [State.peek, unimplementedAt, State.stored, h, unnamed]

/-- R49: a write of any value stores 0 in `0xFF04` under `DIV_FREE_RUNNING`. -/
theorem poke_undesignated (s : State) (v : Byte) (h : region a = .io) (unnamed : ioName a.toNat = none) :
    s.poke a v = s.setCell a.toNat (if a = 0xFF04 ∧ s.params.divFreeRunning = true then 0 else v) := by
  have at_div : a = 0xFF04 ↔ a.toNat = 0xFF04 := BitVec.toNat_inj.symm
  simp only [State.poke, h, unnamed, at_div]
  split
  next div => rw [div.1]
  next => rfl

/-- R40: all bits of `IE` are stored. -/
theorem peek_poke_ie (s : State) (v : Byte) : (s.poke 0xFFFF v).peek 0xFFFF = v := rfl

end

/-! ## The claim -/

/-- Settles O41, region by region. -/
theorem readAfterWrite : Obligations.ReadAfterWrite := by
  unfold Obligations.ReadAfterWrite
  intro s a v
  refine ⟨fun h => ⟨peek_reserved s h, poke_reserved s v h⟩, fun flat => poke_flat_cart s v flat,
    fun flat => peek_flat_cartRam s flat, fun plain => ⟨peek_poke_plain s v plain plain rfl, fun b other => ?mirror⟩,
    fun h undesignated => ?io, peek_poke_ie s v⟩
  case mirror =>
    rcases other with ⟨low, hb, ha⟩ | ⟨ha, hb⟩
    · obtain ⟨plain', same⟩ := storageKey_mirror ha low hb
      exact peek_poke_plain s v plain plain' same
    · have range := range_of ha
      have work : region b = .wram := by
        simp only [region_eq_iff, Region.range] at range ⊢
        omega
      have low : b.toNat < 0xDE00 := by
        simp only [Region.range] at range
        omega
      exact peek_poke_plain s v plain (by simp [isPlain_eq, work, Region.isPlain])
        (storageKey_mirror work low hb.symm).2.symm
  case io =>
    have unnamed := ioName_undesignated h undesignated
    rw [poke_undesignated s v h unnamed, peek_undesignated _ h unnamed, cell_setCell_same]

end Sys2Proof.Machine
end

section
/-! PROOF. What the engines and the host leave to the CPU (O51), and the other agents to the PPU (O52). -/

namespace Sys2Proof.Machine

/-- Settles O51: each of the seven states has the CPU's own state as `s` has it. -/
theorem enginesLeaveTheCpu : Obligations.EnginesLeaveTheCpu := by
  unfold Obligations.EnginesLeaveTheCpu
  intro s gate n u t ht
  have same : SameCpu s t := by
    simp only [List.mem_cons, List.not_mem_nil, or_false] at ht
    rcases ht with rfl | rfl | rfl | rfl | rfl | rfl | rfl
    · exact sameCpu_ppuCycles s gate n
    · exact sameCpu_timerCycles s gate n
    · exact sameCpu_ppuAction s
    · exact sameCpu_timerAction s
    · exact sameCpu_divAction s
    · exact sameCpu_perform s u
    · exact sameCpu_yield s
  exact ⟨same.regs, same.ime, same.imeDelay, same.halted, same.cpuFault, same.cycles, same.params⟩

/-! ## What only the PPU writes -/

/-- `t` has what only the PPU writes as `s` has it (R81, R341): the PPU's own state but its parking, the fields `LY`,
`STAT.MODE` and `STAT.COINCIDENCE`, and the framebuffer. -/
structure SamePpu (s t : State) : Prop where
  ly : t.io.ly = s.io.ly
  mode : t.io.mode = s.io.mode
  coincidence : t.io.coincidence = s.io.coincidence
  framebuffer : t.framebuffer = s.framebuffer
  ppu : { t.ppu with parked := false } = { s.ppu with parked := false }

namespace SamePpu

variable {s t u : State}

theorem refl (s : State) : SamePpu s s := ⟨rfl, rfl, rfl, rfl, rfl⟩

theorem trans (h : SamePpu s t) (k : SamePpu t u) : SamePpu s u :=
  ⟨k.ly.trans h.ly, k.mode.trans h.mode, k.coincidence.trans h.coincidence, k.framebuffer.trans h.framebuffer,
    k.ppu.trans h.ppu⟩

theorem of_sameEngines (h : SameEngines s t) : SamePpu s t :=
  ⟨h.ly, h.mode, h.coincidence, h.framebuffer, by rw [h.ppu]⟩

/-- A change outside the I/O registers, the framebuffer and the PPU's own state. -/
theorem of_eq (io : t.io = s.io) (framebuffer : t.framebuffer = s.framebuffer) (ppu : t.ppu = s.ppu) : SamePpu s t :=
  ⟨by rw [io], by rw [io], by rw [io], framebuffer, by rw [ppu]⟩

/-- A store of an engine to any address but those of `LY` and `STAT`. -/
theorem ioStore (s : State) (a : Word) (v : Byte) (ly : ioName a.toNat ≠ some .ly)
    (stat : ioName a.toNat ≠ some .stat) : SamePpu s (s.ioStore a v) := by
  unfold State.ioStore
  split
  next n named =>
    cases n
    case ly => exact absurd named ly
    case stat => exact absurd named stat
    all_goals exact ⟨rfl, rfl, rfl, rfl, rfl⟩
  next => exact of_eq rfl rfl rfl

theorem raiseIf (s : State) (i : Nat) : SamePpu s (s.raiseIf i) :=
  ioStore s 0xFF0F _ (by decide) (by decide)

/-! ## The Timer and `DIV` -/

theorem timerTick (s : State) (tac : Byte) : SamePpu s (s.timerTick tac) := by
  unfold State.timerTick
  split <;> exact of_eq rfl rfl rfl

/-- The Timer stores to `TIMA` and raises its interrupt, and moves on otherwise. -/
theorem timerMove (s : State) : SamePpu s s.timerMove := by
  unfold State.timerMove
  split
  next => split <;> exact of_eq rfl rfl rfl
  next => split <;> exact of_eq rfl rfl rfl
  next =>
    split
    · exact timerTick s _
    · exact of_eq rfl rfl rfl
  next => exact (ioStore s 0xFF05 _ (by decide) (by decide)).trans (of_eq rfl rfl rfl)
  next => exact of_eq rfl rfl rfl
  next v _ => exact (ioStore s 0xFF05 v (by decide) (by decide)).trans (of_eq rfl rfl rfl)
  next => exact (raiseIf s 2).trans (of_eq rfl rfl rfl)
  next => exact of_eq rfl rfl rfl

theorem timerAction (s : State) : SamePpu s s.timerAction := by
  unfold State.timerAction
  split
  · exact refl s
  · split
    · exact of_eq rfl rfl rfl
    · exact timerMove s

theorem divAction (s : State) : SamePpu s s.divAction := by
  unfold State.divAction State.divCycle
  split
  · exact refl s
  · split
    · split
      · have counted : SamePpu s { s with timer := { s.timer with divCount := 0 } } := of_eq rfl rfl rfl
        exact counted.trans (ioStore _ 0xFF04 _ (by decide) (by decide))
      · exact of_eq rfl rfl rfl
    · exact refl s

/-! ## The host -/

theorem hostRaise (s : State) (i : Nat) : SamePpu s (s.hostRaise i) := (raiseIf s i).trans (of_eq rfl rfl rfl)

theorem hostProceed (s : State) : SamePpu s s.hostProceed := by
  unfold State.hostProceed
  split
  · exact refl s
  · exact hostRaise s 4
  · exact of_eq rfl rfl rfl

theorem hostFinish (s : State) : SamePpu s s.hostFinish := (hostProceed s).trans (hostProceed _)

/-- R408: the host resumes the PPU, and does nothing else to it. -/
theorem hostAction (s : State) (h : HostAction) : SamePpu s (s.hostAction h) := by
  have finished := hostFinish s
  cases h with
  | proceed => exact hostProceed s
  | pause => exact finished.trans (of_eq rfl rfl rfl)
  | resume => exact finished.trans ⟨rfl, rfl, rfl, rfl, rfl⟩
  | key k down => exact finished.trans (of_eq rfl rfl rfl)
  | raiseSerial => exact finished.trans (hostRaise _ 3)
  | writeTac v => exact finished.trans (of_sameEngines (SameEngines.poke _ 0xFF07 v))

theorem perform (s : State) (u : Turn) (other : u ≠ .ppu) : SamePpu s (s.perform u) := by
  cases u with
  | cpu => exact refl s
  | ppu => exact absurd rfl other
  | timer => exact timerAction s
  | div => exact divAction s
  | host h => exact hostAction s h

end SamePpu

/-- Settles O52: a store of the CPU keeps what is the PPU's, and so does a turn of every agent but the PPU. -/
theorem onlyThePpuWritesItsState : Obligations.OnlyThePpuWritesItsState := by
  unfold Obligations.OnlyThePpuWritesItsState
  intro s a v u other t ht
  have same : SamePpu s t := by
    simp only [List.mem_cons, List.not_mem_nil, or_false] at ht
    rcases ht with rfl | rfl
    · exact .of_sameEngines (SameEngines.poke s a v)
    · exact .perform s u other
  exact ⟨same.ly, same.mode, same.coincidence, same.framebuffer, same.ppu⟩

end Sys2Proof.Machine
end

section
/-! PROOF. The load instructions (O6 to O9). An encoding is read off the shape its first byte has in the primary table;
a meaning is read off the one law of the shared operation it ends with: a plain write of registers, a load, a store. -/

namespace Sys2Proof.Machine

/-! ## Encodings by the shape of the first byte -/

/-- R101, R111: an opcode with a 16-bit immediate, low byte first. -/
theorem encodes_imm16 {op : Byte} {k : Word → Instr} (shape : primary op = .imm16 k)
    (bytes : ∀ a, encode (k a) = withWord op a) (len : ∀ a, (k a).len = 3) (l h : Byte) :
    Encodes (k (h ++ l)) [op, l, h] := by
  refine ⟨(bytes _).trans (withWord_joined op l h), ?_, len _⟩
  simp [decode, shape, joined]

theorem encodes_ldRR (dst src : Reg8) : Encodes (.ldRR dst src) [0x40 + 8 * dst.index + src.index] := by
  cases dst <;> cases src <;> exact ⟨rfl, rfl, rfl⟩

theorem encodes_ldRI (r : Reg8) (d : Byte) : Encodes (.ldRI r d) [0x06 + 8 * r.index, d] := by
  cases r <;> exact ⟨rfl, rfl, rfl⟩

theorem encodes_ldRM (r : Reg8) : Encodes (.ldRM r) [0x46 + 8 * r.index] := by
  cases r <;> exact ⟨rfl, rfl, rfl⟩

theorem encodes_ldMR (r : Reg8) : Encodes (.ldMR r) [0x70 + r.index] := by
  cases r <;> exact ⟨rfl, rfl, rfl⟩

/-- R105, R150: table `rp` has no `AF`, whose index is that of `SP`. -/
theorem encodes_ldRrD16 {rr : Reg16} (table : rr.inRp = true) (l h : Byte) :
    Encodes (.ldRrD16 rr (h ++ l)) [0x01 + 16 * rr.index, l, h] := by
  cases rr with
  | bc | de | hl | sp => exact encodes_imm16 rfl (fun _ => rfl) (fun _ => rfl) l h
  | af => cases table

/-! ## Meanings by the operation they share -/

section
variable {i : Instr} {s : State} {len cost : Nat}

/-- An instruction that writes registers only. -/
theorem exec_plain (g : Regs) (run : exec i s = .next ((s.withCpu g s.cycles).advance len cost))
    (pc : g.pc = s.regs.pc) : exec i s = .next (s.ended g len cost) :=
  run.trans (congrArg _ (withCpu_advance s g pc len cost))

/-- A load of a register from memory. -/
theorem exec_load (r : Reg8) (a : Word)
    (run : exec i s = .next (((s.busRead a).2.setR8 r (s.busRead a).1).advance len cost)) :
    exec i s = .next (s.afterRead.ended (s.regs.setR8 r (s.yield.peek a)) len cost) :=
  run.trans (congrArg _ (read_setR8_advance s r (s.yield.peek a) len cost))

/-- A load of `A` from `x[HL]`, after which `HL` becomes `w`. -/
theorem exec_loadHl (w : Word)
    (run : exec i s = .next (((s.readM.2.setR8 .a s.readM.1).setR16 .hl w).advance len cost)) :
    exec i s = .next (s.afterRead.ended
      ({ s.regs with a := s.yield.peek (s.regs.r16 .hl) }.setR16 .hl w) len cost) :=
  run.trans (congrArg _ (read_setR8_setR16_advance s (s.yield.peek (s.regs.r16 .hl)) w len cost))

/-- A store of one byte. -/
theorem exec_store (a : Word) (v : Byte) (run : exec i s = .next ((s.busWrite a v).advance len cost)) :
    exec i s = .next ((s.afterWrite a v).ended s.regs len cost) :=
  run.trans (congrArg _ (busWrite_advance s a v len cost))

/-- A store to `x[HL]`, after which `HL` becomes `w`. -/
theorem exec_storeHl (v : Byte) (w : Word) (run : exec i s = .next (((s.writeM v).setR16 .hl w).advance len cost)) :
    exec i s = .next ((s.afterWrite (s.regs.r16 .hl) v).ended (s.regs.setR16 .hl w) len cost) :=
  run.trans (congrArg _ (write_setR16_advance s (s.regs.r16 .hl) v w len cost))

end

/-- R151: `SP` is stored low byte first. -/
theorem exec_ldA16Sp (s : State) (a : Word) :
    exec (.ldA16Sp a) s = .next (((s.afterWrite a (BitVec.ofNat 8 (s.regs.sp.toNat % 256))).afterWrite (a + 1)
      (BitVec.ofNat 8 (s.regs.sp.toNat / 256))).ended s.regs 3 5) := by
  have second := busWrite_advance (s.afterWrite a (lo s.regs.sp)) (a + 1) (hi s.regs.sp) 3 5
  rw [State.afterWrite_regs, lo_eq, hi_eq] at second
  rw [← second, ← lo_eq, ← hi_eq]
  rfl

/-! ## The claims -/

/-- Settles O6: four writes of registers. -/
theorem loadsOfRegisters : Obligations.LoadsOfRegisters := by
  unfold Obligations.LoadsOfRegisters
  intro s
  refine ⟨fun dst src => ⟨encodes_ldRR dst src, ?rr⟩, fun r d => ⟨encodes_ldRI r d, ?ri⟩,
    fun rr l h table => ⟨encodes_ldRrD16 table l h, ?rrD16⟩, ⟨rfl, rfl, rfl⟩, ?spHl⟩
  case rr => exact exec_plain _ rfl (s.regs.setR8_pc dst _)
  case ri => exact exec_plain _ rfl (s.regs.setR8_pc r d)
  case rrD16 => exact exec_plain _ rfl (s.regs.setR16_pc rr _)
  case spHl => exact exec_plain { s.regs with sp := s.hl } rfl rfl

/-- Settles O7: eight loads, by the address each reads. -/
theorem loadsFromMemory : Obligations.LoadsFromMemory := by
  unfold Obligations.LoadsFromMemory
  intro s
  refine ⟨fun r => ⟨encodes_ldRM r, exec_load r (s.regs.r16 .hl) rfl⟩,
    ⟨⟨rfl, rfl, rfl⟩, exec_load .a (s.regs.r16 .bc) rfl⟩,
    ⟨⟨rfl, rfl, rfl⟩, exec_load .a (s.regs.r16 .de) rfl⟩,
    fun l h => ⟨encodes_imm16 rfl (fun _ => rfl) (fun _ => rfl) l h, exec_load .a (h ++ l) rfl⟩,
    fun off => ⟨⟨rfl, rfl, rfl⟩, ?highPage⟩, ⟨⟨rfl, rfl, rfl⟩, ?highPageC⟩,
    ⟨⟨rfl, rfl, rfl⟩, exec_loadHl _ rfl⟩, ⟨⟨rfl, rfl, rfl⟩, exec_loadHl _ rfl⟩⟩
  case highPage => exact highPage_eq off ▸ exec_load .a (highPage off) rfl
  case highPageC => exact highPage_eq s.regs.c ▸ exec_load .a (highPage s.regs.c) rfl

/-- Settles O8: ten stores, by the address and the byte of each. -/
theorem storesToMemory : Obligations.StoresToMemory := by
  unfold Obligations.StoresToMemory
  intro s
  refine ⟨fun r => ⟨encodes_ldMR r, exec_store _ _ rfl⟩, fun d => ⟨⟨rfl, rfl, rfl⟩, exec_store _ _ rfl⟩,
    ⟨⟨rfl, rfl, rfl⟩, exec_store _ _ rfl⟩, ⟨⟨rfl, rfl, rfl⟩, exec_store _ _ rfl⟩,
    fun l h => ⟨encodes_imm16 rfl (fun _ => rfl) (fun _ => rfl) l h, exec_store _ _ rfl⟩,
    fun off => ⟨⟨rfl, rfl, rfl⟩, ?highPage⟩, ⟨⟨rfl, rfl, rfl⟩, ?highPageC⟩,
    ⟨⟨rfl, rfl, rfl⟩, exec_storeHl _ _ rfl⟩, ⟨⟨rfl, rfl, rfl⟩, exec_storeHl _ _ rfl⟩,
    fun l h => ⟨encodes_imm16 rfl (fun _ => rfl) (fun _ => rfl) l h, exec_ldA16Sp s (h ++ l)⟩⟩
  case highPage => exact highPage_eq off ▸ exec_store (highPage off) _ rfl
  case highPageC => exact highPage_eq s.regs.c ▸ exec_store (highPage s.regs.c) _ rfl

/-- R153, R211: the flags of the unsigned addition of the low byte of `SP` and the displacement byte. -/
theorem flagsAre_spAddF (sp : Word) (e : Byte) :
    FlagsAre (maskF (spAddF sp e)) false false (decide (15 < sp.toNat % 16 + e.toNat % 16))
      (decide (255 < sp.toNat % 256 + e.toNat)) :=
  flagsAre_mkF ..

/-- Settles O9: both instructions compute one sum and one flag byte. -/
theorem stackPointerPlusDisplacement : Obligations.StackPointerPlusDisplacement := by
  unfold Obligations.StackPointerPlusDisplacement
  intro s e
  exact ⟨s.regs.sp + sext16 e, maskF (spAddF s.regs.sp e), add_sext16_toNat s.regs.sp e, flagsAre_spAddF s.regs.sp e,
    ⟨rfl, rfl, rfl⟩, exec_plain _ rfl rfl, ⟨rfl, rfl, rfl⟩, exec_plain _ rfl rfl⟩

end Sys2Proof.Machine
end

section
/-! PROOF. The stack (O12, O13): `PUSH` and `POP` by the laws of `Push16` and `Pop16`, and what a push into plain storage
leaves for the next pop. -/

namespace Sys2Proof.Machine

/-! ## `PUSH` and `POP` -/

/-- R105, R171, R172: table `rp2` has no `SP`, whose index is that of `AF`. -/
theorem encodes_pushRr_popRr {rr : Reg16} (table : rr.inRp2 = true) :
    Encodes (.pushRr rr) [0xC5 + 16 * rr.index] ∧ Encodes (.popRr rr) [0xC1 + 16 * rr.index] := by
  cases rr with
  | bc | de | hl | af => exact ⟨⟨rfl, rfl, rfl⟩, rfl, rfl, rfl⟩
  | sp => cases table

@[simp] theorem State.afterPush_regs (s : State) (v : Word) : (s.afterPush v).regs = s.regs := by
  simp [State.afterPush]

@[simp] theorem State.afterPush_cycles (s : State) (v : Word) : (s.afterPush v).cycles = s.cycles := by
  simp [State.afterPush]

/-- An instruction whose bus actions lead to `t` and which leaves the registers `g`. -/
theorem exec_afterBus {i : Instr} {s t : State} {len cost : Nat} (g : Regs)
    (run : exec i s = .next ((t.withCpu g s.cycles).advance len cost)) (cycles : t.cycles = s.cycles)
    (pc : g.pc = t.regs.pc) : exec i s = .next (t.ended g len cost) := by
  rw [run, ← cycles, withCpu_advance t g pc]

theorem exec_pushRr (s : State) (rr : Reg16) :
    exec (.pushRr rr) s
      = .next ((s.afterPush (s.regs.r16 rr)).ended { s.regs with sp := s.regs.sp - 2 } 1 4) := by
  have run : exec (.pushRr rr) s = .next ((s.push16 (s.regs.r16 rr)).advance 1 4) := rfl
  rw [push16_eq] at run
  exact exec_afterBus _ run (by simp) (by simp)

theorem exec_popRr (s : State) (rr : Reg16) :
    exec (.popRr rr) s
      = .next (s.afterRead.afterRead.ended ({ s.regs with sp := s.regs.sp + 2 }.setR16 rr s.popped) 1 3) := by
  have run : exec (.popRr rr) s = .next ((s.pop16.2.setR16 rr s.pop16.1).advance 1 3) := rfl
  rw [pop16_eq] at run
  exact exec_afterBus (t := s.afterRead.afterRead) ({ s.regs with sp := s.regs.sp + 2 }.setR16 rr s.popped) run
    (by simp) (by simp)

/-- Settles O12: the encodings of table `rp2`, and the two meanings. -/
theorem pushAndPop : Obligations.PushAndPop := by
  unfold Obligations.PushAndPop
  exact fun s rr => ⟨encodes_pushRr_popRr, exec_pushRr s rr, exec_popRr s rr⟩

/-! ## The end of an instruction -/

@[simp] theorem State.ended_sp (s : State) (g : Regs) (len cost : Nat) : (s.ended g len cost).regs.sp = g.sp := rfl

@[simp] theorem State.ended_cell (s : State) (g : Regs) (len cost k : Nat) :
    (s.ended g len cost).cell k = s.cell k := rfl

@[simp] theorem State.ended_quiet (s : State) (g : Regs) (len cost : Nat) : (s.ended g len cost).quiet = s.quiet := rfl

/-- Where the program stands is no part of a pair. -/
@[simp] theorem State.ended_r16 (s : State) (g : Regs) (len cost : Nat) (rr : Reg16) :
    (s.ended g len cost).regs.r16 rr = g.r16 rr := by
  cases rr <;> rfl

/-! ## Two neighbouring bytes of plain storage -/

/-- R62: only the alias window reaches a storage other than its own address. -/
theorem storageKey_eq (a : Word) :
    storageKey a = if 0xE000 ≤ a.toNat ∧ a.toNat < 0xFE00 then a.toNat - 0x2000 else a.toNat := by
  have window : region a = .wramAlias ↔ 0xE000 ≤ a.toNat ∧ a.toNat < 0xFE00 := region_eq_iff a .wramAlias
  split
  next inside => exact storageKey_wramAlias (window.mpr inside)
  next outside => exact storageKey_of_ne_wramAlias (mt window.mp outside)

/-- Neighbouring addresses reach different storage, at the ends of the alias window too. -/
theorem storageKey_add_one_ne (a : Word) : storageKey (a + 1) ≠ storageKey a := by
  have next : (a + 1).toNat = (a.toNat + 1) % 65536 := BitVec.toNat_add a 1
  have := a.isLt
  rw [storageKey_eq, storageKey_eq, next]
  split <;> split <;> omega

theorem word_sub_two_add_one (a : Word) : a - 2 + 1 = a - 1 := by
  bv_omega

/-! ## A push and a pop with no other agent moving -/

section
variable {s : State}

theorem afterRead_of_quiet (q : s.quiet = true) : s.afterRead = { s with draws := s.draws + 1 } :=
  quiet_act s q .read

theorem afterWrite_of_quiet (q : s.quiet = true) (a : Word) (v : Byte) : s.afterWrite a v = s.poke a v :=
  quiet_act s q (.write a v)

theorem quiet_poke (q : s.quiet = true) (a : Word) (v : Byte) : (s.poke a v).quiet = true :=
  (quiet_of_sameEngines (SameEngines.poke s a v)).trans q

theorem afterPush_of_quiet (q : s.quiet = true) (v : Word) :
    s.afterPush v = (s.poke (s.regs.sp - 1) (hi v)).poke (s.regs.sp - 2) (lo v) := by
  rw [State.afterPush, ← hi_eq, ← lo_eq, afterWrite_of_quiet q, afterWrite_of_quiet (quiet_poke q _ _)]

theorem quiet_afterPush (q : s.quiet = true) (v : Word) : (s.afterPush v).quiet = true :=
  afterPush_of_quiet q v ▸ quiet_poke (quiet_poke q _ _) _ _

/-- R170: a pop from plain storage reads the two cells that `SP` and the next address reach. -/
theorem popped_of_quiet (q : s.quiet = true) (low : isPlain s.regs.sp = true)
    (high : isPlain (s.regs.sp + 1) = true) :
    s.popped = joined (s.cell (storageKey (s.regs.sp + 1))) (s.cell (storageKey s.regs.sp)) := by
  have q' : { s with draws := s.draws + 1 }.quiet = true := q
  rw [State.popped, ← joined_eq, afterRead_of_quiet q, yield_of_quiet _ q', yield_of_quiet s q, peek_plain _ low,
    peek_plain _ high]
  rfl

/-- R173: the two cells a push into plain storage has written. -/
theorem cell_afterPush (q : s.quiet = true) (high : isPlain (s.regs.sp - 1) = true)
    (low : isPlain (s.regs.sp - 2) = true) (v : Word) :
    (s.afterPush v).cell (storageKey (s.regs.sp - 1)) = hi v ∧
      (s.afterPush v).cell (storageKey (s.regs.sp - 2)) = lo v := by
  have apart : storageKey (s.regs.sp - 1) ≠ storageKey (s.regs.sp - 2) := by
    rw [← word_sub_two_add_one]
    exact storageKey_add_one_ne _
  rw [afterPush_of_quiet q, poke_plain _ _ high, poke_plain _ _ low]
  exact ⟨by rw [cell_setCell_other _ _ _ _ apart, cell_setCell_same], cell_setCell_same ..⟩

/-- R173: a pop after a push into plain storage reads the value pushed. -/
theorem popped_ended_afterPush (q : s.quiet = true) (high : isPlain (s.regs.sp - 1) = true)
    (low : isPlain (s.regs.sp - 2) = true) (v : Word) :
    ((s.afterPush v).ended { s.regs with sp := s.regs.sp - 2 } 1 4).popped = v := by
  obtain ⟨highCell, lowCell⟩ := cell_afterPush q high low v
  rw [← word_sub_two_add_one] at high highCell
  rw [popped_of_quiet, State.ended_sp, State.ended_cell, State.ended_cell, highCell, lowCell, joined_hi_lo]
  · rw [State.ended_quiet, quiet_afterPush q]
  · rw [State.ended_sp, low]
  · rw [State.ended_sp, high]

end

/-! ## The round trip -/

/-- R24: a flag byte is not changed by the mask a write of `F` applies. -/
theorem maskF_of_low : ∀ f : Byte, f &&& 0x0F = 0 → maskF f = f := by decide +kernel

/-- A pair written with its own value, in whatever register file, reads as that value. -/
theorem Regs.r16_setR16_r16 (g g' : Regs) (rr : Reg16) (low : g.f &&& 0x0F = 0) :
    (g'.setR16 rr (g.r16 rr)).r16 rr = g.r16 rr := by
  by_cases h : rr = .af
  · subst h
    show joined (hi (joined g.a g.f)) (maskF (lo (joined g.a g.f))) = joined g.a g.f
    rw [hi_joined, lo_joined, maskF_of_low g.f low]
  · exact (g'.r16_setR16 (g.r16 rr)).1 rr h

theorem Regs.setR16_sp_of_inRp2 (g : Regs) (v : Word) {rr : Reg16} (table : rr.inRp2 = true) :
    (g.setR16 rr v).sp = g.sp := by
  cases rr with
  | bc | de | hl | af => rfl
  | sp => cases table

/-- Settles O13: the pop reads the two cells the push has written, and `SP` goes two down and two up. -/
theorem pushPopRoundTrip : Obligations.PushPopRoundTrip := by
  unfold Obligations.PushPopRoundTrip
  intro s rr table q flagsLow high low
  refine ⟨_, _, exec_pushRr s rr, exec_popRr _ rr, ?pair, ?sp⟩
  case pair => rw [State.ended_r16, popped_ended_afterPush q high low, s.regs.r16_setR16_r16 _ rr flagsLow]
  case sp => rw [State.ended_sp, Regs.setR16_sp_of_inRp2 _ _ table, State.ended_sp, BitVec.sub_add_cancel]

end Sys2Proof.Machine
end

section
/-! PROOF. The accumulator operations in their three forms (O14, O15, O16): the encodings by table `alu`, the meaning by
the one result an operation leaves in the registers, and that result by its rule on numbers. -/

namespace Sys2Proof.Machine

/-! ## Encodings of table `alu` (R107) -/

section
variable {k : Nat}

theorem encodes_aluR (hk : k < 8) (r : Reg8) : Encodes (aluR k r) [BitVec.ofNat 8 (0x80 + 8 * k) + r.index] := by
  interval_cases k <;> cases r <;> exact ⟨rfl, rfl, rfl⟩

theorem encodes_aluM (hk : k < 8) : Encodes (aluM k) [BitVec.ofNat 8 (0x86 + 8 * k)] := by
  interval_cases k <;> exact ⟨rfl, rfl, rfl⟩

theorem encodes_aluI (hk : k < 8) (d : Byte) : Encodes (aluI k d) [BitVec.ofNat 8 (0xC6 + 8 * k), d] := by
  interval_cases k <;> exact ⟨rfl, rfl, rfl⟩

end

/-! ## Meanings by the registers they leave -/

section
variable {k : Nat} {rule : AccRule}

/-- R181: the three forms leave the registers `after` computes from those before and the operand. -/
theorem accForms_of_after (hk : k < 8) (after : Regs → Byte → Regs) (meets : ∀ g o, rule g o (after g o))
    (pc : ∀ g o, (after g o).pc = g.pc)
    (runR : ∀ s r, exec (aluR k r) s = .next ((s.withCpu (after s.regs (s.r8 r)) s.cycles).advance 1 1))
    (runM : ∀ s, exec (aluM k) s = .next (s.afterRead.ended (after s.regs (s.yield.peek (s.regs.r16 .hl))) 1 2))
    (runI : ∀ s d, exec (aluI k d) s = .next ((s.withCpu (after s.regs d) s.cycles).advance 2 2)) :
    AccForms (aluR k) (aluM k) (aluI k) k rule := fun s =>
  ⟨fun r => ⟨encodes_aluR hk r, _, meets _ _, exec_plain _ (runR s r) (pc _ _)⟩,
    ⟨encodes_aluM hk, _, meets _ _, runM s⟩,
    fun d => ⟨encodes_aluI hk d, _, meets _ _, exec_plain _ (runI s d) (pc _ _)⟩⟩

/-- R181: an operation on the flags, `A` and the operand that leaves its result in `A` and the flags. -/
theorem accForms_of_putA (hk : k < 8) (op : Byte → Byte → Byte → Result)
    (meets : ∀ g o, rule g o (g.putA (op g.f g.a o)))
    (runR : ∀ s r, exec (aluR k r) s = .next ((s.putA (op s.regs.f s.regs.a (s.r8 r))).advance 1 1))
    (runM : ∀ s, exec (aluM k) s = .next ((s.aluM (op s.regs.f)).advance 1 2))
    (runI : ∀ s d, exec (aluI k d) s = .next ((s.putA (op s.regs.f s.regs.a d)).advance 2 2)) :
    AccForms (aluR k) (aluM k) (aluI k) k rule :=
  accForms_of_after hk (fun g o => g.putA (op g.f g.a o)) meets (fun _ _ => rfl) runR
    (fun s => (runM s).trans (congrArg _ (aluM_advance s (op s.regs.f) 1 2))) runI

end

/-- R189: the memory form of `CP` reads its operand and writes the flags alone. -/
theorem exec_cpM (s : State) :
    exec .cpM s = .next (s.afterRead.ended
      { s.regs with f := maskF (subOp s.regs.a (s.yield.peek (s.regs.r16 .hl)) false).f } 1 2) := by
  have run : exec .cpM s = .next ((s.afterRead.setF
      (subOp s.afterRead.regs.a (s.yield.peek (s.regs.r16 .hl)) false).f).advance 1 2) := rfl
  rw [run, read_setF_advance, State.afterRead_regs]

/-! ## Results by their rules -/

/-- R182, R183. -/
theorem addsTo_addOp (c : Bool) (g : Regs) (o : Byte) : AddsTo c.toNat g o (g.putA (addOp g.a o c)) :=
  ⟨_, _, BitVec.toNat_ofNat .., flagsAre_of_eq (beq_zero_eq _) rfl rfl rfl, rfl⟩

/-- R184, R185. -/
theorem subtractsFrom_subOp (c : Bool) (g : Regs) (o : Byte) :
    SubtractsFrom c.toNat g o (g.putA (subOp g.a o c)) :=
  ⟨_, _, difference_subOp c g o, rfl⟩

/-- R189. -/
theorem compares_subOp (g : Regs) (o : Byte) : Compares g o { g with f := maskF (subOp g.a o false).f } :=
  ⟨_, _, difference_subOp false g o, rfl⟩

/-- R186 to R188: a byte whose bits are those of the operation, with the flags of a logical operation. -/
theorem combines_of_bits {op : Bool → Bool → Bool} {g : Regs} {o v : Byte} (half : Bool)
    (bits : ∀ i, v.getLsbD i = op (g.a.getLsbD i) (o.getLsbD i)) :
    Combines op half g o (g.putA ⟨v, mkF (v == 0) false half false⟩) :=
  ⟨v, _, fun i _ => bits i, flagsAre_of_eq (beq_zero_eq v) rfl rfl rfl, rfl⟩

/-! ## The claims -/

/-- Settles O14: both are one sum, with and without Carry. -/
theorem addAndAdc : Obligations.AddAndAdc := by
  unfold Obligations.AddAndAdc
  refine ⟨?add, ?adc⟩
  case add =>
    exact accForms_of_putA (k := 0) (by decide) (fun _ a o => addOp a o false) (addsTo_addOp false)
      (fun _ _ => rfl) (fun _ => rfl) (fun _ _ => rfl)
  case adc =>
    exact accForms_of_putA (k := 1) (by decide) (fun f a o => addOp a o (flagC f))
      (fun g o => flagC_eq g.f ▸ addsTo_addOp (flagC g.f) g o)
      (fun _ _ => rfl) (fun _ => rfl) (fun _ _ => rfl)

/-- Settles O15: the three are one difference, which `CP` does not keep. -/
theorem subSbcAndCp : Obligations.SubSbcAndCp := by
  unfold Obligations.SubSbcAndCp
  refine ⟨?sub, ?sbc, ?cp⟩
  case sub =>
    exact accForms_of_putA (k := 2) (by decide) (fun _ a o => subOp a o false) (subtractsFrom_subOp false)
      (fun _ _ => rfl) (fun _ => rfl) (fun _ _ => rfl)
  case sbc =>
    exact accForms_of_putA (k := 3) (by decide) (fun f a o => subOp a o (flagC f))
      (fun g o => flagC_eq g.f ▸ subtractsFrom_subOp (flagC g.f) g o)
      (fun _ _ => rfl) (fun _ => rfl) (fun _ _ => rfl)
  case cp =>
    exact accForms_of_after (k := 7) (by decide) (fun g o => { g with f := maskF (subOp g.a o false).f })
      compares_subOp (fun _ _ => rfl) (fun _ _ => rfl) exec_cpM (fun _ _ => rfl)

/-- Settles O16, bit by bit. -/
theorem andXorAndOr : Obligations.AndXorAndOr := by
  unfold Obligations.AndXorAndOr
  refine ⟨?and, ?xor, ?or⟩
  case and =>
    exact accForms_of_putA (k := 4) (by decide) (fun _ => andOp)
      (fun _ _ => combines_of_bits true fun _ => BitVec.getLsbD_and)
      (fun _ _ => rfl) (fun _ => rfl) (fun _ _ => rfl)
  case xor =>
    exact accForms_of_putA (k := 5) (by decide) (fun _ => xorOp)
      (fun _ _ => combines_of_bits false fun _ => BitVec.getLsbD_xor)
      (fun _ _ => rfl) (fun _ => rfl) (fun _ _ => rfl)
  case or =>
    exact accForms_of_putA (k := 6) (by decide) (fun _ => orOp)
      (fun _ _ => combines_of_bits false fun _ => BitVec.getLsbD_or)
      (fun _ _ => rfl) (fun _ => rfl) (fun _ _ => rfl)

end Sys2Proof.Machine
end

section
/-! PROOF. Increment and decrement (O17), and the flag instructions (O20). -/

namespace Sys2Proof.Machine

/-! ## Increment and decrement -/

theorem encodes_incR_decR (r : Reg8) :
    Encodes (.incR r) [0x04 + 8 * r.index] ∧ Encodes (.decR r) [0x05 + 8 * r.index] := by
  cases r <;> exact ⟨⟨rfl, rfl, rfl⟩, rfl, rfl, rfl⟩

section
variable {i : Instr} {s : State} {len cost : Nat}

/-- A result left in a register and the flags. -/
theorem exec_putR (r : Reg8) (v : Result) (run : exec i s = .next ((s.putR r v).advance len cost)) :
    exec i s = .next (s.ended { s.regs.setR8 r v.val with f := maskF v.f } len cost) :=
  exec_plain _ run (s.regs.setR8_pc r v.val)

/-- R72: a read of `x[HL]`, then a write of the result to the same address. -/
theorem exec_modifyM (op : Byte → Result) (run : exec i s = .next ((s.modifyM op).advance len cost)) :
    exec i s = .next ((s.afterRead.afterWrite (s.regs.r16 .hl) (op (s.yield.peek (s.regs.r16 .hl))).val).ended
      { s.regs with f := maskF (op (s.yield.peek (s.regs.r16 .hl))).f } len cost) :=
  run.trans (congrArg _ (modifyM_advance s op len cost))

end

/-- Settles O17: the register forms write a register, the memory forms read and write one address. -/
theorem incrementAndDecrement : Obligations.IncrementAndDecrement := by
  unfold Obligations.IncrementAndDecrement
  intro s
  refine ⟨fun r => ?registers, ⟨⟨rfl, rfl, rfl⟩, rfl, rfl, rfl⟩, ?incM, ?decM⟩
  case registers =>
    obtain ⟨inc, dec⟩ := encodes_incR_decR r
    exact ⟨inc, dec, ⟨_, _, steps_incOp _ _, exec_putR r _ rfl⟩, _, _, steps_decOp _ _, exec_putR r _ rfl⟩
  case incM => exact ⟨_, _, steps_incOp _ _, exec_modifyM (incOp s.regs.f) rfl⟩
  case decM => exact ⟨_, _, steps_decOp _ _, exec_modifyM (decOp s.regs.f) rfl⟩

/-! ## Flag instructions -/

/-- Settles O20: the flags that stay are read before the instruction. -/
theorem flagInstructions : Obligations.FlagInstructions := by
  unfold Obligations.FlagInstructions
  refine ⟨⟨rfl, rfl, rfl⟩, ⟨rfl, rfl, rfl⟩, ⟨rfl, rfl, rfl⟩, fun s => ?_⟩
  have zero := flagZ_eq s.regs.f
  have carry := flagC_eq s.regs.f
  exact ⟨⟨_, _, BitVec.toNat_not, flagsAre_of_eq zero rfl rfl carry, exec_plain _ rfl rfl⟩,
    ⟨_, flagsAre_of_eq zero rfl rfl rfl, exec_plain _ rfl rfl⟩,
    ⟨_, flagsAre_of_eq zero rfl rfl (congrArg _ carry), exec_plain _ rfl rfl⟩⟩

end Sys2Proof.Machine
end

section
/-! PROOF. Decimal adjust: the table (O19) and the instruction (O18). -/

namespace Sys2Proof.Machine

/-! ## The rows of the table -/

/-- R194: a row covers a key when its three flags are those of the key and the nibbles of `A` are in its ranges. -/
theorem DaaRow.covers_iff (r : DaaRow) (a f : Byte) :
    r.covers a f = true ↔ r.n = negativeOf f ∧ r.c = carryOf f ∧ r.h = halfOf f ∧
      (r.highFrom ≤ a.toNat / 16 ∧ a.toNat / 16 ≤ r.highTo) ∧ r.lowFrom ≤ a.toNat % 16 ∧ a.toNat % 16 ≤ r.lowTo := by
  simp only [DaaRow.covers, flagN_eq, flagC_eq, flagH_eq, Bool.and_eq_true, beq_iff_eq, decide_eq_true_eq, and_assoc]
  exact Iff.rfl

/-- Two rows that differ in a flag of their keys, or whose ranges of a nibble do not meet. -/
def DaaRow.Apart (r r' : DaaRow) : Prop :=
  r.n ≠ r'.n ∨ r.c ≠ r'.c ∨ r.h ≠ r'.h ∨ r.highTo < r'.highFrom ∨ r'.highTo < r.highFrom ∨
    r.lowTo < r'.lowFrom ∨ r'.lowTo < r.lowFrom

theorem daaTable_apart : daaTable.Pairwise DaaRow.Apart := by
  unfold DaaRow.Apart
  decide

theorem DaaRow.Apart.not_covers {r r' : DaaRow} {a f : Byte} (apart : r.Apart r') (first : r.covers a f = true) :
    ¬ r'.covers a f = true := by
  intro second
  obtain ⟨n, c, h, high, low⟩ := (r.covers_iff a f).1 first
  obtain ⟨n', c', h', high', low'⟩ := (r'.covers_iff a f).1 second
  rcases apart with d | d | d | d
  · exact d (n.trans n'.symm)
  · exact d (c.trans c'.symm)
  · exact d (h.trans h'.symm)
  · omega

/-- Of a list whose members exclude each other in `p`, at most one has `p`. -/
theorem length_filter_le_one {α : Type} {l : List α} {p : α → Bool}
    (exclusive : l.Pairwise fun x y => p x = true → ¬ p y = true) : (l.filter p).length ≤ 1 := by
  have has : ∀ x ∈ l.filter p, p x = true := fun x hx => (List.mem_filter.1 hx).2
  have still := exclusive.filter p
  match h : l.filter p with
  | [] => simp
  | [_] => simp
  | x :: y :: _ =>
    rw [h] at has still
    exact absurd (has y (by simp)) (List.rel_of_pairwise_cons still (by simp) (has x (by simp)))

/-- R195: the row of a key is a row of the table that covers it. -/
theorem daaRow_some {a f : Byte} {row : DaaRow} (h : daaRow a f = some row) :
    row ∈ daaTable ∧ row.covers a f = true :=
  ⟨List.mem_of_find?_eq_some h, List.find?_some (p := fun r : DaaRow => r.covers a f) h⟩

/-- R195: the keys of the table, by Negative, Carry and Half-carry and the nibbles of `A`. -/
theorem daaRow_isSome_iff (a f : Byte) :
    (daaRow a f).isSome = true ↔
      match negativeOf f, carryOf f, halfOf f with
      | false, false, false => True
      | false, false, true => a.toNat % 16 ≤ 3
      | false, true, false => a.toNat / 16 ≤ 2
      | false, true, true => a.toNat / 16 ≤ 3 ∧ a.toNat % 16 ≤ 3
      | true, false, false => a.toNat / 16 ≤ 9 ∧ a.toNat % 16 ≤ 9
      | true, false, true => a.toNat / 16 ≤ 8 ∧ 6 ≤ a.toNat % 16
      | true, true, false => 7 ≤ a.toNat / 16 ∧ a.toNat % 16 ≤ 9
      | true, true, true => 6 ≤ a.toNat / 16 ∧ 6 ≤ a.toNat % 16 := by
  have := a.isLt
  rw [daaRow, List.find?_isSome]
  simp only [DaaRow.covers_iff]
  -- In each case, the rows with these three flags cover together the ranges the case lists.
  split
  all_goals
    next n c h =>
      simp [daaTable, n, c, h] <;> omega

/-! ## The total algorithm (R195) -/

/-- What the chip's algorithm adds for the low nibble, which is or is not past 9. -/
def daaLowAdd (n h past : Bool) : Nat := if n then (if h then 250 else 0) else (if h || past then 6 else 0)

/-- What the chip's algorithm adds for the high nibble, where `A` is or is not past `0x99`. -/
def daaHighAdd (n c past : Bool) : Nat := if n then (if c then 160 else 0) else (if c || past then 96 else 0)

/-- Carry after the chip's algorithm. -/
def daaCarry (n c past : Bool) : Bool := if n then c else (c || past)

/-- Each row has the result of the chip's algorithm on the least key it covers. -/
theorem daaTable_results : ∀ r ∈ daaTable,
    r.add.toNat = (daaLowAdd r.n r.h (9 < r.lowFrom) + daaHighAdd r.n r.c (0x99 < 16 * r.highFrom + r.lowFrom)) % 256 ∧
      r.carryAfter = daaCarry r.n r.c (0x99 < 16 * r.highFrom + r.lowFrom) := by
  decide

/-- Each row of Negative 0 lies on one side of both thresholds; with Negative 1 the algorithm has none. -/
theorem daaTable_sides : ∀ r ∈ daaTable, r.n = false →
    (r.lowTo ≤ 9 ∨ 9 < r.lowFrom) ∧ (16 * r.highTo + r.lowTo ≤ 0x99 ∨ 0x99 < 16 * r.highFrom + r.lowFrom) := by
  decide

/-- A row has the result of the chip's algorithm on every key it covers. -/
theorem DaaRow.agrees {row : DaaRow} {a f : Byte} (mem : row ∈ daaTable) (covers : row.covers a f = true) :
    (a.toNat + row.add.toNat) % 256
        = (a.toNat + daaLowAdd (negativeOf f) (halfOf f) (9 < a.toNat % 16)
          + daaHighAdd (negativeOf f) (carryOf f) (0x99 < a.toNat)) % 256 ∧
      row.carryAfter = daaCarry (negativeOf f) (carryOf f) (0x99 < a.toNat) := by
  obtain ⟨n, c, h, high, low⟩ := (row.covers_iff a f).1 covers
  obtain ⟨add, carry⟩ := daaTable_results row mem
  rw [add, carry, ← n, ← c, ← h, Nat.add_mod_mod, ← Nat.add_assoc]
  cases negative : row.n with
  | true => exact ⟨rfl, rfl⟩
  | false =>
    obtain ⟨lowSide, highSide⟩ := daaTable_sides row mem negative
    have pastLow : 9 < a.toNat % 16 ↔ 9 < row.lowFrom := by omega
    have past : 0x99 < a.toNat ↔ 0x99 < 16 * row.highFrom + row.lowFrom := by omega
    simp only [pastLow, past, and_self]

/-- Settles O19: the keys by the flags, the results row by row. -/
theorem decimalAdjustRows : Obligations.DecimalAdjustRows := by
  unfold Obligations.DecimalAdjustRows
  intro a f
  refine ⟨?disjoint, daaRow_isSome_iff a f, fun row found => ?total⟩
  case disjoint => exact length_filter_le_one (daaTable_apart.imp fun apart => apart.not_covers)
  case total =>
    obtain ⟨mem, covers⟩ := daaRow_some found
    exact DaaRow.agrees mem covers

/-! ## The instruction -/

/-- R194: a key in a row of the table. -/
theorem exec_daa_of_row {s : State} {row : DaaRow} (found : daaRow s.regs.a s.regs.f = some row) :
    exec .daa s = .next (s.ended (s.regs.putA (daaOp row s.regs.a s.regs.f)) 1 1) := by
  have run : exec .daa s = .next ((s.putA (daaOp row s.regs.a s.regs.f)).advance 1 1) := by
    simp only [exec, execDaa, found]
  exact exec_plain _ run rfl

/-- R322: a key in no row. -/
theorem exec_daa_of_none {s : State} (none : daaRow s.regs.a s.regs.f = none) :
    exec .daa s = .next (s.raiseFault (.daaTableMiss s.regs.pc s.regs.a s.regs.f)) := by
  simp only [exec, execDaa, none]

/-- Settles O18, by the row of the key. -/
theorem decimalAdjust : Obligations.DecimalAdjust := by
  unfold Obligations.DecimalAdjust
  refine ⟨⟨rfl, rfl, rfl⟩, fun s => ?_⟩
  split
  next row found =>
    exact ⟨s.regs.a + row.add, _, BitVec.toNat_add .., flagsAre_of_eq (beq_zero_eq _) (flagN_eq _) rfl rfl,
      exec_daa_of_row found⟩
  next none => exact exec_daa_of_none none

end Sys2Proof.Machine
end

section
/-! PROOF. 16-bit arithmetic on the pairs of table `rp` (O21). -/

namespace Sys2Proof.Machine

/-- R105, R210, R212, R213: table `rp` has no `AF`, whose index is that of `SP`. -/
theorem encodes_pairArithmetic {rr : Reg16} (table : rr.inRp = true) :
    Encodes (.addHlRr rr) [0x09 + 16 * rr.index] ∧ Encodes (.incRr rr) [0x03 + 16 * rr.index] ∧
      Encodes (.decRr rr) [0x0B + 16 * rr.index] := by
  cases rr with
  | bc | de | hl | sp => exact ⟨⟨rfl, rfl, rfl⟩, ⟨rfl, rfl, rfl⟩, rfl, rfl, rfl⟩
  | af => cases table

/-- R210: Zero stays; Half-carry and Carry are the carries out of bits 11 and 15. -/
theorem flagsAre_addHlF (f : Byte) (h v : Word) :
    FlagsAre (maskF (addHlF f h v)) (zeroOf f) false (decide (0x0FFF < h.toNat % 4096 + v.toNat % 4096))
      (decide (0xFFFF < h.toNat + v.toNat)) :=
  flagsAre_of_eq (flagZ_eq f) rfl rfl rfl

/-- R213: the step below 0 is to `0xFFFF`. -/
theorem toNat_sub_one (v : Word) : ((v - 1).toNat : Int) = (v.toNat - 1 : Int) % 65536 := by
  have bound := v.isLt
  have wraps : (v - 1).toNat = (65535 + v.toNat) % 65536 := BitVec.toNat_sub v 1
  omega

/-- Settles O21: each writes one pair, `ADD HL,rr` the flags as well. -/
theorem pairArithmetic : Obligations.PairArithmetic := by
  unfold Obligations.PairArithmetic
  intro s rr table
  obtain ⟨add, inc, dec⟩ := encodes_pairArithmetic table
  refine ⟨add, inc, dec, ⟨s.hl + s.r16 rr, _, BitVec.toNat_add .., flagsAre_addHlF .., ?addRun⟩,
    ⟨s.r16 rr + 1, BitVec.toNat_add .., ?incRun⟩, s.r16 rr - 1, toNat_sub_one _, ?decRun⟩
  case addRun => exact exec_plain _ rfl rfl
  case incRun => exact exec_plain _ rfl (s.regs.setR16_pc rr _)
  case decRun => exact exec_plain _ rfl (s.regs.setR16_pc rr _)

end Sys2Proof.Machine
end

section
/-! PROOF. Control flow (O22, O23, O24): a jump, a push and a jump, a pop and a jump, and the conditional forms of the
three by the one choice they share. -/

namespace Sys2Proof.Machine

/-! ## Encodings by table `cc` (R106) -/

theorem encodes_jpCc (cc : Cond) (l h : Byte) : Encodes (.jpCc cc (h ++ l)) [0xC2 + 8 * cc.index, l, h] := by
  cases cc <;> exact encodes_imm16 rfl (fun _ => rfl) (fun _ => rfl) l h

theorem encodes_callCc (cc : Cond) (l h : Byte) : Encodes (.callCc cc (h ++ l)) [0xC4 + 8 * cc.index, l, h] := by
  cases cc <;> exact encodes_imm16 rfl (fun _ => rfl) (fun _ => rfl) l h

theorem encodes_jrCc (cc : Cond) (e : Byte) : Encodes (.jrCc cc e) [0x20 + 8 * cc.index, e] := by
  cases cc <;> exact ⟨rfl, rfl, rfl⟩

theorem encodes_retCc (cc : Cond) : Encodes (.retCc cc) [0xC0 + 8 * cc.index] := by
  cases cc <;> exact ⟨rfl, rfl, rfl⟩

/-- R102, R232: the target of a restart is in bits 5 to 3 of its opcode. -/
theorem encodes_rst {y : Nat} (hy : y < 8) :
    Encodes (.rst (BitVec.ofNat 8 (8 * y))) [BitVec.ofNat 8 (0xC7 + 8 * y)] := by
  interval_cases y <;> exact ⟨rfl, rfl, rfl⟩

/-- R232: the targets of the restarts fit in a byte. -/
theorem zext16_rstTarget {y : Nat} (hy : y < 8) : zext16 (BitVec.ofNat 8 (8 * y)) = BitVec.ofNat 16 (8 * y) := by
  interval_cases y <;> rfl

/-! ## Meanings by the operation they share -/

section
variable {i : Instr} {s : State} {cost : Nat}

/-- A push of the return address and a jump. -/
theorem exec_pushJump (ret target : Word) (run : exec i s = .next ((s.push16 ret).jump target cost)) :
    exec i s = .next ((s.afterPush ret).went { s.regs with sp := s.regs.sp - 2, pc := target } cost) :=
  run.trans (congrArg _ (push16_jump s ret target cost))

/-- A pop of `pc`. -/
theorem exec_popJump (run : exec i s = .next (s.pop16.2.jump s.pop16.1 cost)) :
    exec i s = .next (s.afterRead.afterRead.went { s.regs with sp := s.regs.sp + 2, pc := s.popped } cost) :=
  run.trans (congrArg _ (pop16_jump s cost))

/-- R106, R220: a conditional form goes to `t` where the flags before it meet the condition, and else to the next
instruction. -/
theorem exec_conditional {cc : Cond} {len : Nat} {t t' : State} (taken : t' = t)
    (run : exec i s = if cc.holds s.regs.f then .next t' else .next (s.advance len cost)) :
    exec i s = .next (if condition cc s.regs.f then t else s.ended s.regs len cost) := by
  rw [run, holds_eq, taken]
  split
  next => rfl
  next => rfl

end

/-- R231: a return from an interrupt is a return that opens the gate. -/
theorem exec_reti (s : State) :
    exec .reti s = .next { s.afterRead.afterRead.went { s.regs with sp := s.regs.sp + 2, pc := s.popped } 4 with
      ime := true, imeDelay := 0 } := by
  have run : exec .reti s = .next { s.pop16.2.jump s.pop16.1 4 with ime := true, imeDelay := 0 } := rfl
  rw [run, pop16_jump]

/-! ## The claims -/

/-- Settles O22: the five forms write `pc` alone. -/
theorem jumps : Obligations.Jumps := by
  unfold Obligations.Jumps
  intro s
  refine ⟨fun l h => ⟨encodes_imm16 rfl (fun _ => rfl) (fun _ => rfl) l h, rfl⟩,
    fun cc l h => ⟨encodes_jpCc cc l h, exec_conditional rfl rfl⟩, ⟨⟨rfl, rfl, rfl⟩, rfl⟩,
    fun e => ⟨s.relative e, ?target, ⟨rfl, rfl, rfl⟩, rfl,
      fun cc => ⟨encodes_jrCc cc e, exec_conditional rfl rfl⟩⟩⟩
  case target =>
    have following : ((s.regs.pc + 2).toNat : Int) = (s.regs.pc.toNat + 2) % 65536 := by
      rw [BitVec.toNat_add]
      rfl
    rw [State.relative, add_sext16_toNat, following, Int.emod_add_emod]

/-- Settles O23: each taken form is one push and one jump. -/
theorem calls : Obligations.Calls := by
  unfold Obligations.Calls
  intro s
  refine ⟨fun l h => ⟨encodes_imm16 rfl (fun _ => rfl) (fun _ => rfl) l h, exec_pushJump _ _ rfl⟩,
    fun cc l h => ⟨encodes_callCc cc l h, exec_conditional (push16_jump ..) rfl⟩,
    fun y hy => ⟨encodes_rst hy, ?rst⟩⟩
  case rst => exact zext16_rstTarget hy ▸ exec_pushJump (s.regs.pc + 1) _ rfl

/-- Settles O24: each taken form is one pop into `pc`. -/
theorem returns : Obligations.Returns := by
  unfold Obligations.Returns
  exact ⟨⟨rfl, rfl, rfl⟩, ⟨rfl, rfl, rfl⟩, fun s => ⟨exec_popJump rfl, exec_reti s,
    fun cc => ⟨encodes_retCc cc, exec_conditional (pop16_jump s 5) rfl⟩⟩⟩

end Sys2Proof.Machine
end

section
/-! PROOF. Rotates and shifts (O25, O26): a move of a byte by one place as a number, the eight rules of table `rot` from
it, and each form by the operation it ends with. -/

namespace Sys2Proof.Machine

/-! ## Moves by one place on numbers (R240) -/

theorem append_toNat {m n : Nat} (high : BitVec m) (low : BitVec n) :
    (high ++ low).toNat = high.toNat * 2 ^ n + low.toNat := by
  rw [BitVec.toNat_append, Nat.shiftLeft_eq, Nat.mul_comm, ← Nat.two_pow_add_eq_or_of_lt low.isLt]

/-- A move left: every bit goes up by one place and `low` comes in at bit 0. -/
theorem toNat_moveLeft (o : Byte) (low : BitVec 1) :
    (o.extractLsb' 0 7 ++ low).toNat = 2 * o.toNat % 256 + low.toNat := by
  rw [append_toNat, BitVec.extractLsb'_toNat, Nat.shiftRight_zero]
  omega

/-- A move right: every bit goes down by one place and `high` comes in at bit 7. -/
theorem toNat_moveRight (high : BitVec 1) (o : Byte) :
    (high ++ o.extractLsb' 1 7).toNat = o.toNat / 2 + 128 * high.toNat := by
  have := o.isLt
  rw [append_toNat, BitVec.extractLsb'_toNat, Nat.shiftRight_eq_div_pow]
  omega

theorem toNat_bitSeven (o : Byte) : (o.extractLsb' 7 1).toNat = o.toNat / 128 := by
  have := o.isLt
  rw [BitVec.extractLsb'_toNat, Nat.shiftRight_eq_div_pow]
  omega

theorem bit_seven (o : Byte) : bit o 7 = decide (128 ≤ o.toNat) := BitVec.msb_eq_decide o

theorem bit_zero (o : Byte) : bit o 0 = decide (o.toNat % 2 = 1) := Nat.testBit_zero o.toNat

/-! ## The rules of table `rot` (R107) -/

/-- R241, R245. -/
theorem rotRule_rlc (c : Bool) (o : Byte) : rotRule 0 c o (rlcOp o).val (rlcOp o).carry :=
  ⟨(toNat_moveLeft o _).trans (congrArg _ (toNat_bitSeven o)), bit_seven o⟩

/-- R242, R246. -/
theorem rotRule_rrc (c : Bool) (o : Byte) : rotRule 1 c o (rrcOp o).val (rrcOp o).carry :=
  ⟨toNat_moveRight _ o, bit_zero o⟩

/-- R243, R247. -/
theorem rotRule_rl (c : Bool) (o : Byte) : rotRule 2 c o (rlOp c o).val (rlOp c o).carry :=
  ⟨(toNat_moveLeft o _).trans (congrArg _ (BitVec.toNat_ofBool c)), bit_seven o⟩

/-- R244, R248. -/
theorem rotRule_rr (c : Bool) (o : Byte) : rotRule 3 c o (rrOp c o).val (rrOp c o).carry :=
  ⟨(toNat_moveRight _ o).trans (congrArg (_ + 128 * ·) (BitVec.toNat_ofBool c)), bit_zero o⟩

/-- R249. -/
theorem rotRule_sla (c : Bool) (o : Byte) : rotRule 4 c o (slaOp o).val (slaOp o).carry :=
  ⟨toNat_moveLeft o 0#1, bit_seven o⟩

/-- R250. -/
theorem rotRule_sra (c : Bool) (o : Byte) : rotRule 5 c o (sraOp o).val (sraOp o).carry :=
  ⟨(toNat_moveRight _ o).trans (congrArg (_ + 128 * ·) (toNat_bitSeven o)), bit_zero o⟩

/-- R251: the low nibble becomes the high one. -/
theorem rotRule_swap (c : Bool) (o : Byte) : rotRule 6 c o (swapOp o).val (swapOp o).carry := by
  refine ⟨?_, rfl⟩
  have := o.isLt
  have nibbles : (swapOp o).val.toNat = _ := append_toNat (o.extractLsb' 0 4) (o.extractLsb' 4 4)
  rw [nibbles, BitVec.extractLsb'_toNat, BitVec.extractLsb'_toNat, Nat.shiftRight_eq_div_pow, Nat.shiftRight_eq_div_pow]
  omega

/-- R252. -/
theorem rotRule_srl (c : Bool) (o : Byte) : rotRule 7 c o (srlOp o).val (srlOp o).carry :=
  ⟨toNat_moveRight 0#1 o, bit_zero o⟩

/-! ## Encodings of table `rot` (R107) -/

section
variable {k : Nat}

theorem encodes_rotR (hk : k < 8) (r : Reg8) : Encodes (rotR k r) [0xCB, BitVec.ofNat 8 (8 * k) + r.index] := by
  interval_cases k <;> cases r <;> exact ⟨rfl, rfl, rfl⟩

theorem encodes_rotM (hk : k < 8) : Encodes (rotM k) [0xCB, BitVec.ofNat 8 (8 * k + 6)] := by
  interval_cases k <;> exact ⟨rfl, rfl, rfl⟩

end

/-! ## Flags and meanings of the three forms (R240) -/

/-- Zero is that of the result. -/
theorem flagsAre_shiftF (r : Shifted) : FlagsAre (maskF (shiftF r)) (decide (r.val.toNat = 0)) false false r.carry :=
  flagsAre_of_eq (beq_zero_eq r.val) rfl rfl rfl

/-- Zero is cleared whatever the result. -/
theorem flagsAre_shiftAF (r : Shifted) : FlagsAre (maskF (shiftAF r)) false false false r.carry := flagsAre_mkF ..

section
variable {k : Nat} (op : Bool → Byte → Shifted) (meets : ∀ c o, rotRule k c o (op c o).val (op c o).carry)
include meets

/-- The two general forms rotate a register, and the byte at `x[HL]`: a read and a write of one address. -/
theorem rotForms_of_shift (hk : k < 8)
    (runR : ∀ s r, exec (rotR k r) s = .next ((s.shiftR r (op (flagC s.regs.f))).advance 2 2))
    (runM : ∀ s, exec (rotM k) s = .next ((s.shiftM (op (flagC s.regs.f))).advance 2 4)) :
    RotForms (rotR k) (rotM k) k := by
  intro s
  rw [← flagC_eq]
  exact ⟨fun r => ⟨encodes_rotR hk r, _, _, _, meets _ _, flagsAre_shiftF _, exec_putR r ⟨_, shiftF _⟩ (runR s r)⟩,
    encodes_rotM hk, _, _, _, meets _ _, flagsAre_shiftF _, exec_modifyM _ (runM s)⟩

/-- The accumulator-only form rotates `A`. -/
theorem accRotate_of_shiftA {i : Instr} {code : Byte} (encodes : Encodes i [code])
    (run : ∀ s, exec i s = .next ((s.shiftA (op (flagC s.regs.f))).advance 1 1)) : AccRotate i code k := by
  refine ⟨encodes, fun s => ?_⟩
  rw [← flagC_eq]
  exact ⟨_, _, _, meets _ _, flagsAre_shiftAF _, exec_putR .a ⟨_, shiftAF _⟩ (run s)⟩

end

/-! ## The claims -/

/-- Settles O25: the four accumulator-only forms keep the rules of the general ones. -/
theorem accumulatorRotates : Obligations.AccumulatorRotates := by
  unfold Obligations.AccumulatorRotates
  refine ⟨?rlca, ?rrca, ?rla, ?rra⟩
  case rlca => exact accRotate_of_shiftA (fun _ => rlcOp) rotRule_rlc ⟨rfl, rfl, rfl⟩ fun _ => rfl
  case rrca => exact accRotate_of_shiftA (fun _ => rrcOp) rotRule_rrc ⟨rfl, rfl, rfl⟩ fun _ => rfl
  case rla => exact accRotate_of_shiftA rlOp rotRule_rl ⟨rfl, rfl, rfl⟩ fun _ => rfl
  case rra => exact accRotate_of_shiftA rrOp rotRule_rr ⟨rfl, rfl, rfl⟩ fun _ => rfl

/-- Settles O26: the eight operations of table `rot`, each by its rule. -/
theorem rotatesAndShifts : Obligations.RotatesAndShifts := by
  unfold Obligations.RotatesAndShifts
  refine ⟨?rlc, ?rrc, ?rl, ?rr, ?sla, ?sra, ?swap, ?srl⟩
  case rlc => exact rotForms_of_shift (fun _ => rlcOp) rotRule_rlc (by decide) (fun _ _ => rfl) fun _ => rfl
  case rrc => exact rotForms_of_shift (fun _ => rrcOp) rotRule_rrc (by decide) (fun _ _ => rfl) fun _ => rfl
  case rl => exact rotForms_of_shift rlOp rotRule_rl (by decide) (fun _ _ => rfl) fun _ => rfl
  case rr => exact rotForms_of_shift rrOp rotRule_rr (by decide) (fun _ _ => rfl) fun _ => rfl
  case sla => exact rotForms_of_shift (fun _ => slaOp) rotRule_sla (by decide) (fun _ _ => rfl) fun _ => rfl
  case sra => exact rotForms_of_shift (fun _ => sraOp) rotRule_sra (by decide) (fun _ _ => rfl) fun _ => rfl
  case swap => exact rotForms_of_shift (fun _ => swapOp) rotRule_swap (by decide) (fun _ _ => rfl) fun _ => rfl
  case srl => exact rotForms_of_shift (fun _ => srlOp) rotRule_srl (by decide) (fun _ _ => rfl) fun _ => rfl

end Sys2Proof.Machine
end

section
/-! PROOF. Bit test, reset and set (O27): the encodings by the number of the bit, the flags of a test, and the meanings
by the operation they share. -/

namespace Sys2Proof.Machine

/-! ## Encodings by the number of the bit (R112, R260) -/

/-- R260: the field `b` is a number from 0 to 7. -/
theorem exists_bitNumber (b : BitVec 3) : ∃ k < 8, BitVec.ofNat 3 k = b := by
  refine ⟨b.toNat, b.isLt, ?_⟩
  rw [BitVec.ofNat_toNat, BitVec.setWidth_eq]

theorem encodes_bitFormsR (b : BitVec 3) (r : Reg8) :
    Encodes (.bitR b r) [0xCB, BitVec.ofNat 8 (0x40 + 8 * b.toNat) + r.index] ∧
      Encodes (.resR b r) [0xCB, BitVec.ofNat 8 (0x80 + 8 * b.toNat) + r.index] ∧
      Encodes (.setR b r) [0xCB, BitVec.ofNat 8 (0xC0 + 8 * b.toNat) + r.index] := by
  obtain ⟨k, hk, rfl⟩ := exists_bitNumber b
  interval_cases k <;> cases r <;> exact ⟨⟨rfl, rfl, rfl⟩, ⟨rfl, rfl, rfl⟩, rfl, rfl, rfl⟩

theorem encodes_bitFormsM (b : BitVec 3) :
    Encodes (.bitM b) [0xCB, BitVec.ofNat 8 (0x46 + 8 * b.toNat)] ∧
      Encodes (.resM b) [0xCB, BitVec.ofNat 8 (0x86 + 8 * b.toNat)] ∧
      Encodes (.setM b) [0xCB, BitVec.ofNat 8 (0xC6 + 8 * b.toNat)] := by
  obtain ⟨k, hk, rfl⟩ := exists_bitNumber b
  interval_cases k <;> exact ⟨⟨rfl, rfl, rfl⟩, ⟨rfl, rfl, rfl⟩, rfl, rfl, rfl⟩

/-! ## Flags and meanings -/

/-- R261: Carry stays. -/
theorem flagsAre_bitF (f : Byte) (b : BitVec 3) (o : Byte) :
    FlagsAre (maskF (bitF f b o)) (!o.getLsbD b.toNat) false true (carryOf f) :=
  flagsAre_of_eq rfl rfl rfl (flagC_eq f)

/-- R261: the memory form reads its operand and writes the flags alone. -/
theorem exec_bitM (s : State) (b : BitVec 3) :
    exec (.bitM b) s = .next (s.afterRead.ended
      { s.regs with f := maskF (bitF s.regs.f b (s.yield.peek (s.regs.r16 .hl))) } 2 3) := by
  have run : exec (.bitM b) s = .next ((s.afterRead.setF
      (bitF s.afterRead.regs.f b (s.yield.peek (s.regs.r16 .hl)))).advance 2 3) := rfl
  rw [run, read_setF_advance, State.afterRead_regs]

/-- R72: a read of `x[HL]`, then a write of `op` of it to the same address, no flag touched. -/
theorem exec_rewriteM {i : Instr} {s : State} {len cost : Nat} (op : Byte → Byte)
    (run : exec i s = .next ((s.rewriteM op).advance len cost)) :
    exec i s = .next ((s.afterRead.afterWrite (s.regs.r16 .hl) (op (s.yield.peek (s.regs.r16 .hl)))).ended
      s.regs len cost) :=
  run.trans (congrArg _ (rewriteM_advance s op len cost))

/-- Settles O27: a test writes the flags, a reset or a set one byte by the rule of its bits. -/
theorem bitInstructions : Obligations.BitInstructions := by
  unfold Obligations.BitInstructions
  intro s b
  obtain ⟨encBit, encRes, encSet⟩ := encodes_bitFormsM b
  refine ⟨fun r => ?register, encBit, encRes, encSet, ⟨_, flagsAre_bitF .., exec_bitM s b⟩,
    ⟨_, resOp_getLsbD b _, exec_rewriteM _ rfl⟩, _, setOp_getLsbD b _, exec_rewriteM _ rfl⟩
  case register =>
    obtain ⟨encBit, encRes, encSet⟩ := encodes_bitFormsR b r
    exact ⟨encBit, encRes, encSet, ⟨_, flagsAre_bitF .., exec_plain _ rfl rfl⟩,
      ⟨_, resOp_getLsbD b _, exec_plain _ rfl (s.regs.setR8_pc r _)⟩,
      _, setOp_getLsbD b _, exec_plain _ rfl (s.regs.setR8_pc r _)⟩

end Sys2Proof.Machine
end

section
/-! PROOF. `STOP` and the undefined opcodes (O30): each is encoded on its own, and its meaning is to raise its fault. -/

namespace Sys2Proof.Machine

/-! ## `STOP` (R274, R324) -/

theorem encodes_stop (n : Byte) : Encodes (.stop n) [0x10, n] := ⟨rfl, rfl, rfl⟩

theorem exec_stop (n : Byte) (s : State) :
    exec (.stop n) s = .next (s.raiseFault (.stopUnimplemented s.regs.pc)) := rfl

/-! ## The undefined opcodes (R113, R276) -/

/-- The 11 undefined opcodes, each with the constructor it decodes to. -/
def undefinedOpcodes : List (Instr × Byte) :=
  [(.illegalD3, 0xD3), (.illegalDB, 0xDB), (.illegalDD, 0xDD), (.illegalE3, 0xE3), (.illegalE4, 0xE4),
    (.illegalEB, 0xEB), (.illegalEC, 0xEC), (.illegalED, 0xED), (.illegalF4, 0xF4), (.illegalFC, 0xFC),
    (.illegalFD, 0xFD)]

/-- R321: an undefined opcode is complete after its one byte. -/
theorem encodes_undefined {p : Instr × Byte} (undefined : p ∈ undefinedOpcodes) : Encodes p.1 [p.2] := by
  fin_cases undefined <;> exact ⟨rfl, rfl, rfl⟩

/-- R276: the fault carries the opcode that was fetched. -/
theorem exec_undefined {p : Instr × Byte} (undefined : p ∈ undefinedOpcodes) (s : State) :
    exec p.1 s = .next (s.raiseFault (.illegalOpcode s.regs.pc p.2)) := by
  fin_cases undefined <;> rfl

/-- Settles O30: raising a fault writes `cpu_fault` alone. -/
theorem fatalInstructions : Obligations.FatalInstructions := by
  unfold Obligations.FatalInstructions
  exact fun s => ⟨fun n => ⟨encodes_stop n, exec_stop n s⟩,
    fun _ undefined => ⟨encodes_undefined undefined, exec_undefined undefined s⟩⟩

end Sys2Proof.Machine
end

section
/-! PROOF. Interrupts: entry (O32), the check (O33), the wake of a halted CPU (O35) and the raising of a request
(O34). -/

namespace Sys2Proof.Machine

/-! ## Interrupt entry -/

/-- R303: the mask of a source takes its bit, and no other, out of the stored bits of `IF`. -/
theorem extractLsb'_and_not_intMask : ∀ (r : BitVec 5) (i : Nat), i < 5 →
    (r.setWidth 8 &&& ~~~(intMask i)).extractLsb' 0 5
      = BitVec.ofNat 5 (r.toNat - if r.getLsbD i then 2 ^ i else 0) := by decide

/-- R310: the push, the vector, the request cleared after the other agents' turns, the gate closed. -/
theorem interruptEntry_eq (s : State) (i : Nat) :
    s.interruptEntry i =
      let t := (s.afterPush s.regs.pc).yield
      { t with
        regs := { s.regs with sp := s.regs.sp - 2, pc := vector i },
        io := { t.io with ifr := (t.io.ifr.setWidth 8 &&& ~~~(intMask i)).extractLsb' 0 5 },
        ime := false,
        cycles := s.cycles + s.params.intDispatchCycles } := by
  have vectored : (s.push16 s.regs.pc).setPc (vector i)
      = (s.afterPush s.regs.pc).withCpu { s.regs with sp := s.regs.sp - 2, pc := vector i } s.cycles := by
    rw [push16_eq]
    rfl
  have params : (s.afterPush s.regs.pc).yield.params = s.params := by simp [State.afterPush]
  unfold State.interruptEntry
  dsimp only
  rw [vectored, withCpu_yield, ← params]
  rfl

/-- Settles O32: the law of the operation, with the cleared bit as a number. -/
theorem interruptEntry : Obligations.InterruptEntry := by
  unfold Obligations.InterruptEntry
  intro s i source
  rw [interruptEntry_eq]
  dsimp only
  rw [extractLsb'_and_not_intMask _ i source]
  rfl

/-! ## Pending and enabled requests (R307) -/

/-- R303, R307: of the bits of a byte, those of the five sources count. -/
theorem requests_getLsbD (s : State) {i : Nat} (within : i < 8) :
    s.requests.getLsbD i = ((s.io.ifr.getLsbD i && s.io.ie.getLsbD i) && decide (i < 5)) := by
  have sources : BitVec.getLsbD (0x1F : Byte) i = decide (i < 5) := by
    revert i
    decide
  rw [State.requests, BitVec.getLsbD_and, BitVec.getLsbD_and, BitVec.getLsbD_setWidth, sources, decide_eq_true within,
    Bool.true_and]

/-- A request is pending and enabled exactly when one of the five sources is. -/
theorem requests_eq_zero_iff (s : State) :
    s.requests = 0#8 ↔ ∀ i, i < 5 → ¬ (s.io.ifr.getLsbD i = true ∧ s.io.ie.getLsbD i = true) := by
  constructor
  · intro none i source both
    have isSet := requests_getLsbD s (i := i) (by omega)
    rw [none, BitVec.getLsbD_zero, both.1, both.2, decide_eq_true source] at isSet
    cases isSet
  · intro none
    apply BitVec.eq_of_getLsbD_eq
    intro i within
    rw [requests_getLsbD s within, BitVec.getLsbD_zero]
    by_cases source : i < 5
    · simpa [source] using none i source
    · simp [source]

/-- R303, R309: a set bit below which none is set is the one that is served. -/
theorem lowestRequest_eq {p : Byte} {i : Nat} (source : i < 5) (isSet : p.getLsbD i = true)
    (lowest : ∀ j, j < i → p.getLsbD j = false) : lowestRequest p = i := by
  have skip {j k : Nat} (below : j < i) : (if bit p j then j else k) = k := by simp [bit, lowest j below]
  have take {k : Nat} : (if bit p i then i else k) = i := by simp [bit, isSet]
  unfold lowestRequest
  interval_cases i
  · exact take
  · rw [skip (by decide), take]
  · rw [skip (by decide), skip (by decide), take]
  · rw [skip (by decide), skip (by decide), skip (by decide), take]
  · rw [skip (by decide), skip (by decide), skip (by decide), skip (by decide)]

/-! ## The check (R309) -/

theorem busReadMasked_of_quiet {s : State} (q : s.quiet = true) (a : Word) :
    s.busReadMasked a = (s.stored a, { s with draws := s.draws + 1 }) := by
  unfold State.busReadMasked
  rw [yield_of_quiet s q]

/-- R309: the check reads the stored bits of `IF` and `IE`, and enters at most one interrupt. -/
theorem checkInterrupts_of_quiet {s : State} (q : s.quiet = true) :
    s.checkInterrupts =
      if s.ime && s.requests != 0 then { s with draws := s.draws + 2 }.interruptEntry (lowestRequest s.requests)
      else { s with draws := s.draws + 2 } := by
  have q' : { s with draws := s.draws + 1 }.quiet = true := q
  unfold State.checkInterrupts
  simp only [busReadMasked_of_quiet q, busReadMasked_of_quiet q']
  rfl

/-- Settles O33: no request means no entry, and the lowest request is the one entered. -/
theorem interruptCheck : Obligations.InterruptCheck := by
  unfold Obligations.InterruptCheck
  intro s q
  rw [checkInterrupts_of_quiet q]
  refine ⟨fun idle => if_neg ?_, fun i source gateOpen pending enabled lowest => ?_⟩
  · rcases idle with shut | none
    · simp [shut]
    · simp [(requests_eq_zero_iff s).mpr none]
  · have nonzero : s.requests ≠ 0#8 := fun none => (requests_eq_zero_iff s).mp none i source ⟨pending, enabled⟩
    have served : lowestRequest s.requests = i := by
      refine lowestRequest_eq source ?_ fun j below => ?_
      · rw [requests_getLsbD s (by omega)]
        simp [pending, enabled, source]
      · rw [requests_getLsbD s (by omega)]
        simpa [below.trans source] using lowest j below
    rw [served, if_pos (by simp [gateOpen, nonzero])]

/-! ## The wake of a halted CPU (R308) -/

theorem cpuCanStep_iff (s : State) :
    s.cpuCanStep = true ↔
      s.cpuFault = none ∧ s.cpuParked = false ∧ (s.halted = false ∨ s.wakeCondition = true) := by
  simp [State.cpuCanStep, and_assoc]

theorem wakeCondition_latch {s : State} (latch : s.params.haltWake = .latch) :
    s.wakeCondition = true ↔ s.irqLatch = true := by
  simp [State.wakeCondition, latch]

theorem wakeCondition_pending {s : State} (pending : s.params.haltWake = .pending) :
    s.wakeCondition = true ↔ ∃ i, i < 5 ∧ s.io.ifr.getLsbD i = true ∧ s.io.ie.getLsbD i = true := by
  have nonzero := not_congr (requests_eq_zero_iff s)
  push Not at nonzero
  simp [State.wakeCondition, pending, nonzero]

/-- Settles O35: the halted CPU can step exactly where its wake condition holds. -/
theorem haltWake : Obligations.HaltWake := by
  unfold Obligations.HaltWake
  intro s halted
  have awake : s.cpuCanStep = true ↔ s.cpuFault = none ∧ s.cpuParked = false ∧ s.wakeCondition = true := by
    simp [cpuCanStep_iff, halted]
  refine ⟨fun can => ?wakes, fun latch isSet noFault unparked => ?latch, fun pending one noFault unparked => ?pending⟩
  case wakes =>
    obtain ⟨-, -, condition⟩ := awake.mp can
    exact ⟨if_pos halted, fun latch => (wakeCondition_latch latch).mp condition,
      fun pending => (wakeCondition_pending pending).mp condition⟩
  case latch => exact awake.mpr ⟨noFault, unparked, (wakeCondition_latch latch).mpr isSet⟩
  case pending => exact awake.mpr ⟨noFault, unparked, (wakeCondition_pending pending).mpr one⟩

/-! ## Raising a request (R304) -/

/-- R303: the mask of a source puts its bit into the stored bits of `IF`. -/
theorem extractLsb'_or_intMask : ∀ (r : BitVec 5) (i : Nat), i < 5 →
    (r.setWidth 8 ||| intMask i).extractLsb' 0 5 = r ||| BitVec.ofNat 5 (2 ^ i) := by decide

theorem raiseIf_eq (s : State) {i : Nat} (source : i < 5) :
    s.raiseIf i = { s with io := { s.io with ifr := s.io.ifr ||| BitVec.ofNat 5 (2 ^ i) } } := by
  rw [← extractLsb'_or_intMask _ i source]
  rfl

/-- R304: the first action of the host's raise, the latch fire to come. -/
theorem hostRaise_eq (s : State) {i : Nat} (source : i < 5) :
    s.hostRaise i
      = { s with io := { s.io with ifr := s.io.ifr ||| BitVec.ofNat 5 (2 ^ i) }, hostPos := .fire } := by
  unfold State.hostRaise
  rw [raiseIf_eq s source]

theorem hostProceed_orJoypad {s : State} (h : s.hostPos = .orJoypad) : s.hostProceed = s.hostRaise 4 := by
  unfold State.hostProceed
  rw [h]

theorem hostProceed_fire {s : State} (h : s.hostPos = .fire) :
    s.hostProceed = { s with irqLatch := true, hostPos := .idle } := by
  unfold State.hostProceed
  rw [h]
  rfl

/-! ## The keys (R35, R306) -/

theorem Joypad.get_eq_keyIsDown (j : Joypad) (k : Key) : j.get k = keyIsDown j k := by
  cases k <;> rfl

theorem keyIsDown_put_same (j : Joypad) (k : Key) (down : Bool) : keyIsDown (j.put k down) k = down := by
  cases k <;> rfl

theorem keyIsDown_put_other (j : Joypad) {k k' : Key} (down : Bool) (other : k' ≠ k) :
    keyIsDown (j.put k down) k' = keyIsDown j k' := by
  cases k <;> cases k' <;> first | rfl | exact absurd rfl other

/-- R306: a key of a selected line that goes down is to be followed by a raise. -/
theorem hostKey_requests (s : State) {k : Key} (up : keyIsDown s.joypad k = false)
    (selected : s.lineSelected k = true) :
    s.hostKey k true = { s with joypad := s.joypad.put k true, hostPos := .orJoypad } := by
  simp [State.hostKey, Joypad.get_eq_keyIsDown, up, selected]

/-- R306: every other change of a key requests nothing. -/
theorem hostKey_quiet (s : State) {k : Key} {down : Bool}
    (none : down = false ∨ keyIsDown s.joypad k = true ∨ s.lineSelected k = false) :
    s.hostKey k down = { s with joypad := s.joypad.put k down } := by
  rw [← Joypad.get_eq_keyIsDown] at none
  rcases none with h | h | h <;> simp [State.hostKey, h]

/-- Settles O34: the raise of a source, the change of a key with the raise it may start, and the serial raise. -/
theorem interruptRequests : Obligations.InterruptRequests := by
  unfold Obligations.InterruptRequests
  intro s
  refine ⟨fun i source => ?raise, fun idle k down => ?key, fun idle => ?serial⟩
  case raise =>
    rw [raiseIf_eq s source]
    rfl
  case key =>
    have begun : s.hostAction (.key k down) = s.hostKey k down := by
      simp only [State.hostAction, hostFinish_idle idle]
    intro t u deselected
    have line : deselected = !s.lineSelected k := by cases k <;> simp [deselected, State.lineSelected]
    have ht : t = s.hostKey k down := begun
    have joypad : t.joypad = s.joypad.put k down := by rw [ht]; rfl
    refine ⟨by rw [joypad, keyIsDown_put_same], fun j other => by rw [joypad, keyIsDown_put_other _ _ other],
      by rw [ht]; rfl, by rw [ht]; rfl, fun isDown up selected => ?requests, fun none => ?nothing⟩
    case requests =>
      subst isDown
      have hu : u = t.hostRaise 4 := hostProceed_orJoypad (by
        rw [ht, hostKey_requests s up (by simpa [line] using selected)])
      have fired : u.hostAction .proceed = { u with irqLatch := true, hostPos := .idle } :=
        hostProceed_fire (by rw [hu, hostRaise_eq t (by decide)])
      rw [fired, hu, hostRaise_eq t (by decide), ht]
      exact ⟨rfl, rfl, rfl, rfl, rfl⟩
    case nothing =>
      have still : t.hostPos = .idle := by
        rw [ht, hostKey_quiet s (by simpa [line] using none)]
        exact idle
      exact ⟨still, hostProceed_idle still⟩
  case serial =>
    have raised : s.hostAction .raiseSerial = s.hostRaise 3 := by
      simp only [State.hostAction, hostFinish_idle idle]
    rw [raised, hostRaise_eq s (by decide)]
    exact ⟨rfl, rfl, rfl⟩

end Sys2Proof.Machine
end

section
/-! PROOF. The interrupt-received latch (O36): the actions of the other agents keep it set, and so does an iteration of
a CPU that is not halted. What a step is made of is said once, in `step_cases`. -/

namespace Sys2Proof.Machine

/-! ## A step by the schedule and the turn that is listed (R400, R402) -/

section
variable {s : State} {u : Turn} {r : List Turn}

theorem step_lockstep (h : s.params.sched = .lockstep) : step s = (s.hostInputs s.turns).settle.referencePass := by
  simp [step, h]

theorem step_noTurn (free : s.params.sched = .free) (none : s.turns = []) : step s = s.settle.referencePass := by
  simp [step, State.freeStep, free, none]

theorem step_cpuTurn (free : s.params.sched = .free) (turn : s.turns = .cpu :: r) :
    step s = if s.cpuCanStep then s.iteration else .next { s with turns := r } := by
  simp [step, State.freeStep, free, turn]

theorem step_otherTurn (free : s.params.sched = .free) (turn : s.turns = u :: r) (other : u ≠ .cpu) :
    step s = .next (State.perform u { s with turns := r }) := by
  simp [step, State.freeStep, free, turn]

end

/-! ## What a step is made of -/

/-- `t` is reached from `s` by actions of the other agents: it has every property that each of these actions keeps. -/
def Reached (s t : State) : Prop := ∀ P : State → Prop, Stable P → P s → P t

theorem Reached.trans {s t u : State} (h : Reached s t) (k : Reached t u) : Reached s u :=
  fun P st hs => k P st (h P st hs)

/-- An iteration of the CPU with the actions of the other agents before it and after it. -/
def Iterates (s t : State) : Prop :=
  ∃ u v, Reached s u ∧ u.cpuCanStep = true ∧ u.iteration = .next v ∧ Reached v t

theorem Reached.iterates {s s' t : State} (h : Reached s s') (k : Iterates s' t) : Iterates s t := by
  obtain ⟨u, v, before, can, run, after⟩ := k
  exact ⟨u, v, h.trans before, can, run, after⟩

/-- R402: a pass of the reference schedule. -/
theorem referencePass_cases {s t : State} (e : s.referencePass = .next t) :
    (s.cpuCanStep = false ∧ Reached s t) ∨ (s.cpuCanStep = true ∧ Iterates s t) := by
  unfold State.referencePass at e
  split at e
  next can =>
    obtain ⟨v, run, engines⟩ := Answer.andThen_eq_next.1 e
    cases engines
    exact .inr ⟨can, s, v, fun _ _ h => h, can, run, fun _ st h => st.engineCycles _ _ h⟩
  next cannot =>
    cases e
    exact .inl ⟨by simpa using cannot, fun _ st h => st.engineCycles _ _ h⟩

/-- R400, R402: a step is an iteration of the CPU among actions of the other agents where the CPU moves, and such
actions alone where it does not. -/
theorem step_cases {s t : State} (e : step s = .next t) :
    (s.cpuMoves = false ∧ Reached s t) ∨ (s.cpuMoves = true ∧ Iterates s t) := by
  cases schedule : s.params.sched with
  | lockstep =>
    have moves : s.cpuMoves = (s.hostInputs s.turns).settle.cpuCanStep := by simp [State.cpuMoves, schedule]
    have settled : Reached s (s.hostInputs s.turns).settle := fun _ st h => st.settle (st.hostInputs _ h)
    rw [step_lockstep schedule] at e
    rw [moves]
    exact (referencePass_cases e).imp (.imp_right settled.trans) (.imp_right settled.iterates)
  | free =>
    cases turn : s.turns with
    | nil =>
      have moves : s.cpuMoves = s.settle.cpuCanStep := by simp [State.cpuMoves, schedule, turn]
      have settled : Reached s s.settle := fun _ st h => st.settle h
      rw [step_noTurn schedule turn] at e
      rw [moves]
      exact (referencePass_cases e).imp (.imp_right settled.trans) (.imp_right settled.iterates)
    | cons u r =>
      by_cases cpu : u = .cpu
      · subst cpu
        have moves : s.cpuMoves = s.cpuCanStep := by simp [State.cpuMoves, schedule, turn]
        rw [step_cpuTurn schedule turn] at e
        rw [moves]
        split at e
        next can => exact .inr ⟨can, s, t, fun _ _ h => h, can, e, fun _ _ h => h⟩
        next cannot =>
          cases e
          exact .inl ⟨by simpa using cannot, fun _ st h => st.turns s _ h⟩
      · have moves : s.cpuMoves = false := by simp [State.cpuMoves, schedule, turn]
        rw [step_otherTurn schedule turn cpu] at e
        cases e
        exact .inl ⟨moves, fun _ st h => st.perform u (st.turns s r h)⟩

/-! ## The latch (R51, R308) -/

/-- The interrupt-received latch is set. -/
def Latched (s : State) : Prop := s.irqLatch = true

/-- R39: a store to `IF` can fire the latch, and no store clears it. -/
theorem latched_poke (s : State) (a : Word) (v : Byte) (h : Latched s) : Latched (s.poke a v) := by
  by_cases ha : a = 0xFF0F
  · subst ha
    show (s.irqLatch || _) = true
    rw [show s.irqLatch = true from h, Bool.true_or]
  · exact (irqLatch_poke s a v ha).trans h

theorem latched_ppuMove (s : State) (h : Latched s) : Latched s.ppuMove := by
  unfold State.ppuMove
  split
  next p _ => cases p <;> first | exact h | rfl
  next p _ => cases p <;> exact h
  next p _ =>
    cases p
    case coinSet =>
      obtain ⟨w, hw⟩ := setCoin_eq s (s.ppu.seenLy == s.ppu.seenLyc)
      simp only [State.hBlankAction, hw]
      exact h
    all_goals first | exact h | rfl
  next p _ =>
    cases p
    case readStat => simp only [State.vBlankAction]; split <;> exact h
    case stepLy => simp only [State.vBlankAction]; split <;> exact h
    case coinSet =>
      obtain ⟨w, hw⟩ := setCoin_eq s (s.ppu.seenLy == s.ppu.seenLyc)
      simp only [State.vBlankAction, hw]
      split <;> exact h
    all_goals first | exact h | rfl

theorem latched_timerMove (s : State) (h : Latched s) : Latched s.timerMove := by
  unfold State.timerMove
  split
  next => split <;> exact h
  next => split <;> exact h
  next =>
    split
    · unfold State.timerTick
      split <;> exact h
    · exact h
  next => exact h
  next => exact h
  next => exact h
  next => exact h
  next => rfl

theorem latched_divCycle (s : State) (h : Latched s) : Latched s.divCycle := by
  unfold State.divCycle
  split
  · split <;> exact h
  · exact h

/-- R405: the other agents fire the latch, and never clear it. -/
theorem stable_latched : Stable Latched where
  poke := latched_poke
  ppuMove := latched_ppuMove
  timerMove := latched_timerMove
  divCycle := latched_divCycle
  raiseIf := fun _ _ h => h
  fireIrq := fun _ _ => rfl
  turns := fun _ _ h => h
  draws := fun _ _ h => h
  hostPos := fun _ _ h => h
  joypad := fun _ _ h => h
  pause := fun _ h => h
  resume := fun _ h => h
  parkPpu := fun _ h => h
  parkTimer := fun _ h => h
  dot := fun _ _ h => h

/-! ## The latch in an iteration -/

namespace Latched

variable {s t : State}

theorem interruptEntry (h : Latched s) (i : Nat) : Latched (s.interruptEntry i) := by
  rw [interruptEntry_eq]
  exact stable_latched.yield (stable_latched.afterWrite _ _ (stable_latched.afterWrite _ _ h))

theorem checkInterrupts (h : Latched s) : Latched s.checkInterrupts := by
  have read : Latched s.afterRead.afterRead := stable_latched.afterRead (stable_latched.afterRead h)
  unfold State.checkInterrupts
  dsimp only
  split
  · exact interruptEntry read _
  · exact read

theorem countImeDelay (h : Latched s) : Latched s.countImeDelay := by
  unfold State.countImeDelay
  split <;> exact h

theorem of_effect {i : Instr} (h : Latched s) (k : Effect i s t) : Latched t := by
  cases k with
  | fault e => exact h
  | ran acts g ime d halted _ _ _ _ => exact stable_latched.runBus acts h

theorem of_exec {i : Instr} (h : Latched s) (e : exec i s = .next t) : Latched t := by
  by_cases hi : i = .prefixCb
  · subst hi
    rcases exec_prefixCb s with ⟨_, faults⟩ | ⟨_, runs⟩
    · rw [faults] at e
      cases e
      exact h
    · exact (stable_latched.afterRead h).of_effect (effect_of_exec (prefixedInstr_ne _) (runs ▸ e))
  · exact h.of_effect (effect_of_exec hi e)

theorem of_decodeAndExecute (h : Latched s) (e : s.decodeAndExecute = .next t) : Latched t := by
  have read : Latched s.afterRead := stable_latched.afterRead h
  rcases decodeAndExecute_cases e with rfl | ⟨n, rfl | ⟨i, u, hu, rfl⟩⟩
  · exact read
  · exact stable_latched.readCode _ n read
  · exact ((stable_latched.readCode _ n read).of_exec hu).countImeDelay

/-- R308: of the steps of an iteration only the wake clears the latch, and it is a halted CPU's alone. -/
theorem of_iteration (h : Latched s) (running : s.halted = false) (e : s.iteration = .next t) : Latched t := by
  unfold State.iteration at e
  split at e
  next =>
    have atTop : Latched { s with cpuPos := .top } := h
    exact atTop.of_decodeAndExecute e
  next =>
    have wake : s.wake = s := if_neg (by simp [running])
    have before : Latched s.beforeDecode.others := by
      rw [State.beforeDecode, wake]
      exact stable_latched.others h.checkInterrupts
    dsimp only at e
    split at e
    · cases e
      exact before
    · exact before.of_decodeAndExecute e

end Latched

theorem stable_running : Stable (fun s => s.halted = false) := stable_of_sameCore fun k h => k.halted.trans h

/-- Settles O36: by what the step is made of. -/
theorem latchIsKept : Obligations.LatchIsKept := by
  unfold Obligations.LatchIsKept
  intro s t e
  rcases step_cases e with ⟨still, others⟩ | ⟨moves, u, v, before, -, run, after⟩
  · have core : SameCore s t := others _ (stable_of_sameCore fun k h => h.trans k) (SameCore.refl s)
    exact ⟨fun latched _ => others _ stable_latched latched,
      fun _ => ⟨core.halted, core.regs, core.cycles, core.cpuPos⟩⟩
  · refine ⟨fun latched cause => ?_, fun still => by rw [moves] at still; cases still⟩
    have running : s.halted = false := cause.resolve_right (by simp [moves])
    have going : Latched u := before _ stable_latched latched
    exact after _ stable_latched (going.of_iteration (before _ stable_running running) run)

end Sys2Proof.Machine
end

section
/-! PROOF. Bytes past the end of the address space (O38), and the step that runs the decoded instruction (O53): with no
other agent moving the bytes fetched are the bytes that stand at `pc`. -/

namespace Sys2Proof.Machine

/-- Settles O38: the test of R323 comes after the first read and before the second. -/
theorem decodeOutOfBounds : Obligations.DecodeOutOfBounds := by
  unfold Obligations.DecodeOutOfBounds
  intro s past
  exact if_pos past

/-! ## An iteration with no other agent moving -/

/-- The state after `n` more draws of free values, which is what `n` bus reads with no other agent moving leave. -/
def State.drawn (s : State) (n : Nat) : State := { s with draws := s.draws + n }

section
variable {s t : State}

theorem others_of_quiet (q : s.quiet = true) : s.others = s := by
  unfold State.others
  split
  next => rfl
  next free =>
    have none : s.turns = [] := by simpa [State.quiet, free] using q
    rw [none]
    cases s
    cases none
    rfl

theorem SameEngines.drawn (s : State) (n : Nat) : SameEngines s (s.drawn n) := by
  constructor <;> rfl

theorem SameEngines.afterPush (q : s.quiet = true) (v : Word) : SameEngines s (s.afterPush v) := by
  rw [afterPush_of_quiet q]
  exact (SameEngines.poke s _ _).trans (SameEngines.poke _ _ _)

/-- A change of what is the CPU's own and of the requests in `IF`. -/
theorem SameEngines.withOwn (h : SameEngines s t) (g : Regs) (n : Nat) (ime : Bool) (d : Nat) (halted : Bool)
    (ifr : BitVec 5) : SameEngines s { t with
      regs := g, cycles := n, ime := ime, imeDelay := d, halted := halted, io := { t.io with ifr := ifr } } :=
  ⟨h.timer, h.ppu, h.framebuffer, h.joypad, h.stepMode, h.hostPos, h.params, h.turns, h.cpuParked, h.cpuPos, h.ly,
    h.mode, h.coincidence⟩

theorem SameEngines.interruptEntry (q : s.quiet = true) (i : Nat) : SameEngines s (s.interruptEntry i) := by
  rw [interruptEntry_eq, yield_of_quiet _ (quiet_afterPush q _)]
  exact (SameEngines.afterPush q s.regs.pc).withOwn ..

/-- R308, R309: the wake and the interrupt check leave the engines, the host and the debug gate alone. -/
theorem SameEngines.beforeDecode (q : s.quiet = true) : SameEngines s s.beforeDecode := by
  have woken : SameEngines s s.wake := by
    unfold State.wake
    rw [yield_of_quiet s q]
    split <;> constructor <;> rfl
  have q' : s.wake.quiet = true := (quiet_of_sameEngines woken).trans q
  refine woken.trans ?_
  rw [State.beforeDecode, checkInterrupts_of_quiet q']
  split
  · exact (SameEngines.drawn s.wake 2).trans (SameEngines.interruptEntry (s := s.wake.drawn 2) q' _)
  · exact SameEngines.drawn s.wake 2

theorem SameEngines.of_effect {i : Instr} (q : s.quiet = true) (k : Effect i s t) : SameEngines s t := by
  cases k with
  | fault e => constructor <;> rfl
  | ran acts g ime d halted _ _ _ _ => exact (SameEngines.runBus acts s q).withOwn ..

theorem SameEngines.of_exec {i : Instr} (q : s.quiet = true) (e : exec i s = .next t) : SameEngines s t := by
  by_cases hi : i = .prefixCb
  · subst hi
    rcases exec_prefixCb s with ⟨_, faults⟩ | ⟨_, runs⟩
    · rw [faults] at e
      cases e
      constructor <;> rfl
    · have read : SameEngines s s.afterRead := SameEngines.runBus [.read] s q
      have q' : s.afterRead.quiet = true := (quiet_of_sameEngines read).trans q
      exact read.trans (.of_effect q' (effect_of_exec (prefixedInstr_ne _) (runs ▸ e)))
  · exact .of_effect q (effect_of_exec hi e)

end

/-! ## The bytes at `pc` -/

theorem opLength_pos (op : Byte) : 0 < opLength op := by
  unfold opLength
  split <;> decide

theorem State.drawn_drawn (s : State) (m n : Nat) : (s.drawn m).drawn n = s.drawn (n + m) := by
  simp [State.drawn, Nat.add_assoc, Nat.add_comm m]

theorem busRead_of_quiet {s : State} (q : s.quiet = true) (a : Word) : s.busRead a = (s.peek a, s.drawn 1) := by
  rw [busRead_eq, yield_of_quiet s q, afterRead_of_quiet q]
  rfl

/-- The bytes that reads at `a` and upward give, each with the draw of its turn (R34, R70). -/
def BytesAt (s : State) (a : Word) (bytes : List Byte) : Prop :=
  ∀ k, k < bytes.length → bytes[k]? = some ((s.drawn k).peek (a + BitVec.ofNat 16 k))

theorem BytesAt.cons {s : State} {a : Word} {b : Byte} {r : List Byte} (h : BytesAt s a (b :: r)) :
    b = s.peek a ∧ BytesAt (s.drawn 1) (a + 1) r := by
  constructor
  · have first := h 0 (by simp)
    rw [List.getElem?_cons_zero, BitVec.add_zero] at first
    exact Option.some.inj first
  · intro k within
    have next := h (k + 1) (by simpa using within)
    have address : a + 1 + BitVec.ofNat 16 k = a + BitVec.ofNat 16 (k + 1) := by
      rw [BitVec.add_assoc, Nat.add_comm, BitVec.ofNat_add]
      rfl
    rwa [State.drawn_drawn, address]

/-- R79: with no other agent moving a fetch reads the bytes that stand there, one after the other. -/
theorem readCode_of_quiet {s : State} {a : Word} {bytes : List Byte} (q : s.quiet = true) (h : BytesAt s a bytes) :
    s.readCode a bytes.length = (bytes, s.drawn bytes.length) := by
  induction bytes generalizing s a with
  | nil => rfl
  | cons b r ih =>
    obtain ⟨first, rest⟩ := h.cons
    have q' : (s.drawn 1).quiet = true := q
    simp only [List.length_cons, State.readCode, busRead_of_quiet q, ih q' rest, ← first, State.drawn_drawn]

/-- R300 steps 4 to 7: the bytes at `pc` decode to an instruction and lie within the address space. -/
theorem decodeAndExecute_of_bytes {s : State} {i : Instr} {bytes : List Byte} (q : s.quiet = true)
    (length : bytes.length = opLength (s.peek s.regs.pc)) (h : BytesAt s s.regs.pc bytes)
    (within : s.regs.pc.toNat + bytes.length ≤ 65536) (decoded : decode bytes = .ok (i, [])) :
    s.decodeAndExecute
      = Answer.andThen (exec i (s.drawn bytes.length)) (fun t => .next t.countImeDelay) := by
  cases bytes with
  | nil => exact absurd length (opLength_pos _).ne
  | cons op rest =>
    obtain ⟨first, others⟩ := h.cons
    have q' : (s.drawn 1).quiet = true := q
    rw [← first, List.length_cons] at length
    rw [List.length_cons] at within
    unfold State.decodeAndExecute
    simp only [busRead_of_quiet q, ← first, ← length, Nat.add_sub_cancel, readCode_of_quiet q' others, decoded,
      State.drawn_drawn, List.length_cons]
    rw [if_neg (by omega)]

/-! ## A step with no turn listed -/

theorem ppuMove_turns (s : State) : s.ppuMove.turns = s.turns := by
  unfold State.ppuMove
  split
  next p _ => cases p <;> rfl
  next p _ => cases p <;> rfl
  next p _ =>
    cases p <;> try rfl
    obtain ⟨w, hw⟩ := setCoin_eq s (s.ppu.seenLy == s.ppu.seenLyc)
    simp only [State.hBlankAction, hw, State.ppuGo_turns]
  next p _ =>
    cases p <;> simp only [State.vBlankAction] <;> try rfl
    · split <;> rfl
    · split <;> rfl
    · obtain ⟨w, hw⟩ := setCoin_eq s (s.ppu.seenLy == s.ppu.seenLyc)
      rw [hw]
      split <;> rfl

theorem ppuToHold_turns (s : State) (stop : Bool) (n : Nat) : (s.ppuToHold stop n).turns = s.turns := by
  induction n generalizing s with
  | zero => rfl
  | succ n ih =>
    unfold State.ppuToHold
    split
    · rfl
    · rw [ih, ppuMove_turns]

theorem hostProceed_turns (s : State) : s.hostProceed.turns = s.turns := by
  unfold State.hostProceed
  split <;> rfl

theorem settle_turns (s : State) : s.settle.turns = s.turns := by
  have finished : s.hostFinish.turns = s.turns := (hostProceed_turns _).trans (hostProceed_turns s)
  unfold State.settle
  dsimp only
  split
  · exact finished
  · exact (ppuToHold_turns _ _ _).trans finished

theorem sameCpu_settle (s : State) : SameCpu s s.settle := by
  unfold State.settle
  dsimp only
  split
  · exact sameCpu_hostFinish s
  · exact (sameCpu_hostFinish s).trans (sameCpu_ppuToHold _ _ _)

theorem step_of_noTurn {s : State} (none : s.turns = []) : step s = s.settle.referencePass := by
  cases schedule : s.params.sched with
  | lockstep =>
    have inputs : s.hostInputs s.turns = s := by
      rw [none]
      cases s
      cases none
      rfl
    rw [step_lockstep schedule, inputs]
  | free => exact step_noTurn schedule none

theorem countImeDelay_core (s : State) : s.countImeDelay.cycles = s.cycles ∧ s.countImeDelay.params = s.params ∧
    s.countImeDelay.cpuParked = s.cpuParked := by
  unfold State.countImeDelay
  split <;> exact ⟨rfl, rfl, rfl⟩

/-- R300: with no turn listed and `step_mode` clear, the step executes what stands at `pc` and the engines then get its
cycles. -/
theorem step_of_bytes {s : State} {i : Instr} {bytes : List Byte} (none : s.turns = [])
    (can : s.settle.cpuCanStep = true) (top : s.cpuPos = .top) (going : s.settle.stepMode = false)
    (length : bytes.length = opLength (s.settle.beforeDecode.peek s.settle.beforeDecode.regs.pc))
    (h : BytesAt s.settle.beforeDecode s.settle.beforeDecode.regs.pc bytes)
    (within : s.settle.beforeDecode.regs.pc.toNat + bytes.length ≤ 65536) (decoded : decode bytes = .ok (i, [])) :
    ∃ t, exec i (s.settle.beforeDecode.drawn bytes.length) = .next t ∧
      step s = .next (t.countImeDelay.engineCycles s.freeGate (t.cycles - s.cycles)) := by
  have settled := sameCpu_settle s
  have q : s.settle.quiet = true := by simp [State.quiet, settle_turns, none]
  have before := SameEngines.beforeDecode q
  have q' : s.settle.beforeDecode.quiet = true := (quiet_of_sameEngines before).trans q
  obtain ⟨t, run⟩ := exec_answers i (s.settle.beforeDecode.drawn bytes.length)
  have fetched := before.trans (SameEngines.drawn s.settle.beforeDecode bytes.length)
  have after : SameEngines s.settle t := fetched.trans (.of_exec q' run)
  obtain ⟨cycles, params, parked⟩ := countImeDelay_core t
  refine ⟨t, run, ?_⟩
  have iterates : s.settle.iteration = .next t.countImeDelay := by
    unfold State.iteration
    simp only [settled.cpuPos, top, others_of_quiet q', before.stepMode, going, decodeAndExecute_of_bytes q' length h
      within decoded, run]
    rfl
  have gate : (t.countImeDelay.freeGate || t.countImeDelay.cpuParked) = s.freeGate := by
    obtain ⟨-, unparked, -⟩ := (cpuCanStep_iff _).mp can
    rw [parked, after.cpuParked, unparked, Bool.or_false, State.freeGate, params, after.params, settled.params]
    rfl
  rw [step_of_noTurn none, State.referencePass, if_pos can, iterates]
  simp only [Answer.andThen, gate, cycles, settled.cycles]

/-! ## Listed turns -/

/-- R402: the host's inputs before a pass, none of another agent among them. -/
theorem hostInputs_map_host (hs : List HostAction) (s : State) :
    s.hostInputs (hs.map Turn.host) = { hs.foldl (fun u h => u.hostAction h) s with turns := [] } := by
  induction hs generalizing s with
  | nil => rfl
  | cons h r ih => exact ih (s.hostAction h)

theorem runOthers_of_not_cpu {ts : List Turn} (r : List Turn) (others : Turn.cpu ∉ ts) (s : State) :
    s.runOthers ts = { ts.foldl (fun u t => u.perform t) s with turns := [] } ∧
      s.runOthers (ts ++ .cpu :: r) = { ts.foldl (fun u t => u.perform t) s with turns := .cpu :: r } := by
  induction ts generalizing s with
  | nil => exact ⟨rfl, rfl⟩
  | cons t ts ih =>
    obtain ⟨notCpu, rest⟩ := not_or.mp (mt List.mem_cons.mpr others)
    cases t with
    | cpu => exact absurd rfl notCpu
    | _ => exact ih rest _

/-- R301, R400: before an action of the CPU the turns listed ahead of its own are taken, and then its own is used up. -/
theorem yield_of_turns {s : State} (free : s.params.sched = .free) {ts : List Turn} (r : List Turn)
    (others : Turn.cpu ∉ ts) :
    (s.turns = ts → s.yield = { ts.foldl (fun u t => u.perform t) s with turns := [] }) ∧
      (s.turns = ts ++ .cpu :: r → s.yield = { ts.foldl (fun u t => u.perform t) s with turns := r }) := by
  obtain ⟨alone, ahead⟩ := runOthers_of_not_cpu r others s
  have schedule : (ts.foldl (fun u t => u.perform t) s).params.sched = .free := by
    have same := (sameCpu_runOthers s ts).params
    rw [alone] at same
    exact same ▸ free
  have moved : s.others = s.runOthers s.turns := by simp [State.others, free]
  constructor <;> intro turns
  · simp [State.yield, moved, turns, alone, State.takeTurn, schedule]
  · simp [State.yield, moved, turns, ahead, State.takeTurn, schedule]

/-- Settles O53: the fetched instruction, then the listed turns under either schedule. -/
theorem stepRunsDecodedInstruction : Obligations.StepRunsDecodedInstruction := by
  unfold Obligations.StepRunsDecodedInstruction
  refine ⟨fun s i bytes none can top going => step_of_bytes none can top going, fun s hs lockstep turns => ?inputs,
    fun s free => ⟨step_noTurn free, fun r => ⟨fun turn => ?ppu, fun turn => ?timer, fun turn => ?div,
      fun h turn => ?host, fun turn can => ?cpu, fun turn cannot => ?pass⟩,
      fun ts r others => yield_of_turns free r others⟩⟩
  case inputs => rw [step_lockstep lockstep, turns, hostInputs_map_host]
  case ppu => exact step_otherTurn free turn nofun
  case timer => exact step_otherTurn free turn nofun
  case div => exact step_otherTurn free turn nofun
  case host => exact step_otherTurn free turn nofun
  case cpu => rw [step_cpuTurn free turn, if_pos can]
  case pass => rw [step_cpuTurn free turn, if_neg (by simp [cannot])]

end Sys2Proof.Machine
end

section
/-! PROOF. The decoder and the encoder are inverse to each other (O1, O2), and some words of the opcode map (O3). -/

namespace Sys2Proof.Machine

/-! ## Decoding by the shape of the first byte (R100, R101) -/

section
variable {op : Byte} {rest : List Byte}

theorem decode_whole {i : Instr} (shape : primary op = .whole i) : decode (op :: rest) = .ok (i, rest) := by
  simp [decode, shape]

theorem decode_imm8 {k : Byte → Instr} (shape : primary op = .imm8 k) (b : Byte) :
    decode (op :: b :: rest) = .ok (k b, rest) := by
  simp [decode, shape]

/-- R101: the bytes of a 16-bit immediate, low byte first, are put together again. -/
theorem decode_imm16 {k : Word → Instr} (shape : primary op = .imm16 k) (a : Word) :
    decode (withWord op a ++ rest) = .ok (k a, rest) := by
  simp [decode, shape, withWord, joined_hi_lo]

theorem decode_prefixed {op2 : Byte} {i : Instr} (row : prefixedInstr op2 = i) :
    decode (0xCB :: op2 :: rest) = .ok (i, rest) := by
  subst row
  rfl

end

/-! ## From an instruction to its bytes and back -/

/-- R107: the operand of `RST` is a multiple of 8 below 64, which the opcode holds in its bits 5 to 3. -/
theorem primary_rst : ∀ t : Byte, isRstTarget t = true → primary (0xC7 ||| t) = .whole (.rst t) := by
  have targets : ∀ t : Byte, isRstTarget t = true → t ∈ [0x00, 0x08, 0x10, 0x18, 0x20, 0x28, 0x30, 0x38] := by
    decide +kernel
  intro t target
  have listed := targets t target
  fin_cases listed <;> rfl

/-- R112, R260: the number of the bit stands in bits 5 to 3 of the second byte, the operand in bits 2 to 0. -/
theorem prefixedInstr_bitOp (b : BitVec 3) (r : Reg8) :
    prefixedInstr (bitOp 0x40 b r.index) = .bitR b r ∧ prefixedInstr (bitOp 0x80 b r.index) = .resR b r ∧
      prefixedInstr (bitOp 0xC0 b r.index) = .setR b r := by
  obtain ⟨k, hk, rfl⟩ := exists_bitNumber b
  interval_cases k <;> cases r <;> exact ⟨rfl, rfl, rfl⟩

theorem prefixedInstr_bitOpM (b : BitVec 3) :
    prefixedInstr (bitOp 0x40 b 6) = .bitM b ∧ prefixedInstr (bitOp 0x80 b 6) = .resM b ∧
      prefixedInstr (bitOp 0xC0 b 6) = .setM b := by
  obtain ⟨k, hk, rfl⟩ := exists_bitNumber b
  interval_cases k <;> exact ⟨rfl, rfl, rfl⟩

/-- R103, R110: the bytes of a well-formed instruction, with any others after them, decode to it and to those others. -/
theorem decode_encode_append (i : Instr) (rest : List Byte) (wf : i.wellFormed = true) (notPrefix : i ≠ .prefixCb) :
    decode (encode i ++ rest) = .ok (i, rest) := by
  cases i
  case prefixCb => exact absurd rfl notPrefix
  -- No operand in the opcode.
  case ldA16Sp a | ldA16A a | ldAA16 a | jp a | call a => exact decode_imm16 rfl a
  case stop v | jr v | ldMI v | addI v | adcI v | subI v | sbcI v | andI v | xorI v | orI v | cpI v | ldhA8A v
    | addSpE8 v | ldhAA8 v | ldHlSpE8 v => exact decode_imm8 rfl v
  -- A condition (R106).
  case jrCc cc v => cases cc <;> exact decode_imm8 rfl v
  case jpCc cc a | callCc cc a => cases cc <;> exact decode_imm16 rfl a
  case retCc cc => cases cc <;> exact decode_whole rfl
  -- A pair (R105): `AF` is none of table `rp`, `SP` none of table `rp2`.
  case ldRrD16 rr a =>
    cases rr with
    | bc | de | hl | sp => exact decode_imm16 rfl a
    | af => cases wf
  case addHlRr rr | incRr rr | decRr rr =>
    cases rr with
    | bc | de | hl | sp => exact decode_whole rfl
    | af => cases wf
  case popRr rr | pushRr rr =>
    cases rr with
    | bc | de | hl | af => exact decode_whole rfl
    | sp => cases wf
  -- A register (R104).
  case ldRI r v => cases r <;> exact decode_imm8 rfl v
  case ldRR dst src => cases dst <;> cases src <;> exact decode_whole rfl
  case incR r | decR r | ldRM r | ldMR r | addR r | adcR r | subR r | sbcR r | andR r | xorR r | orR r | cpR r =>
    cases r <;> exact decode_whole rfl
  case rst t => exact decode_whole (primary_rst t wf)
  -- The prefixed table (R112).
  case rlcR r | rrcR r | rlR r | rrR r | slaR r | sraR r | swapR r | srlR r => cases r <;> exact decode_prefixed rfl
  case rlcM | rrcM | rlM | rrM | slaM | sraM | swapM | srlM => exact decode_prefixed rfl
  case bitR b r => exact decode_prefixed (prefixedInstr_bitOp b r).1
  case resR b r => exact decode_prefixed (prefixedInstr_bitOp b r).2.1
  case setR b r => exact decode_prefixed (prefixedInstr_bitOp b r).2.2
  case bitM b => exact decode_prefixed (prefixedInstr_bitOpM b).1
  case resM b => exact decode_prefixed (prefixedInstr_bitOpM b).2.1
  case setM b => exact decode_prefixed (prefixedInstr_bitOpM b).2.2
  -- One byte, no operand.
  all_goals exact decode_whole rfl

/-- Settles O1: each instruction by the shape of its first byte; a bare `0xCB` is a list of one byte. -/
theorem decodeEncode : Obligations.DecodeEncode := by
  unfold Obligations.DecodeEncode
  exact ⟨decode_encode_append, rfl⟩

/-! ## From bytes to an instruction and back -/

/-- What a shape says of its opcode `op`: with an immediate filled in, it is a well-formed instruction whose encoding is
the opcode and that immediate. -/
def ReadsAs (op : Byte) (shape : Shape) : Prop :=
  ∀ (v : Byte) (a : Word),
    match shape with
    | .whole i => i.wellFormed = true ∧ encode i = [op]
    | .imm8 k => (k v).wellFormed = true ∧ encode (k v) = [op, v]
    | .imm16 k => (k a).wellFormed = true ∧ encode (k a) = withWord op a
    | .prefixed => op = 0xCB ∧ Instr.prefixCb.wellFormed = true

/-- R111, R114: no opcode reads as the instruction of another. -/
theorem readsAs_primary (op : Byte) : ReadsAs op (primary op) := by
  have rows : ∀ n < 256, ReadsAs (BitVec.ofNat 8 n) (primary (BitVec.ofNat 8 n)) := by
    intro n hn
    interval_cases n <;> exact fun _ _ => ⟨rfl, rfl⟩
  have row := rows op.toNat op.isLt
  rwa [BitVec.ofNat_toNat, BitVec.setWidth_eq] at row

/-- R112: nor does a second byte of the prefixed table. -/
theorem encode_prefixedInstr : ∀ op2 : Byte,
    (prefixedInstr op2).wellFormed = true ∧ encode (prefixedInstr op2) = [0xCB, op2] := by decide +kernel

/-- R103, R114: what is read is a well-formed instruction, and the bytes read are its encoding. -/
theorem encode_of_decode {bytes rest : List Byte} {i : Instr} (h : decode bytes = .ok (i, rest)) :
    i.wellFormed = true ∧ encode i ++ rest = bytes := by
  unfold decode at h
  split at h
  next => cases h
  next op r =>
    have reads := readsAs_primary op
    unfold ReadsAs at reads
    split at h
    next shape =>
      cases h
      rw [shape] at reads
      obtain ⟨wf, bytes⟩ := reads 0 0
      exact ⟨wf, by rw [bytes]; rfl⟩
    next v r shape =>
      cases h
      rw [shape] at reads
      obtain ⟨wf, bytes⟩ := reads v 0
      exact ⟨wf, by rw [bytes]; rfl⟩
    next l h' r shape =>
      cases h
      rw [shape] at reads
      obtain ⟨wf, bytes⟩ := reads 0 (joined h' l)
      refine ⟨wf, ?_⟩
      rw [bytes, withWord, lo_joined, hi_joined]
      rfl
    next op2 r shape =>
      cases h
      rw [shape] at reads
      obtain ⟨rfl, -⟩ := reads 0 0
      obtain ⟨wf, bytes⟩ := encode_prefixedInstr op2
      exact ⟨wf, by rw [bytes]; rfl⟩
    next shape =>
      cases h
      rw [shape] at reads
      obtain ⟨rfl, wf⟩ := reads 0 0
      exact ⟨wf, rfl⟩
    next => cases h

/-- Settles O2: by the shape of the first byte. -/
theorem encodeDecode : Obligations.EncodeDecode := by
  unfold Obligations.EncodeDecode
  exact fun _ _ _ => encode_of_decode

/-- Settles O3: each word is one row of the map. -/
theorem decodeWords : Obligations.DecodeWords := by
  unfold Obligations.DecodeWords
  exact ⟨rfl, rfl, rfl, rfl, rfl, rfl, rfl, rfl, rfl, rfl, rfl, rfl⟩

end Sys2Proof.Machine
end

section
/-! PROOF. What every instruction does to the cycle counter, the gate, the memory and the engines (O4, O10, O11, O28,
O29, O31), by the one effect an instruction has; and that every step answers (O39). -/

namespace Sys2Proof.Machine

/-! ## Cycles and memory -/

/-- Settles O4: an effect that is no fault adds the cost. -/
theorem cyclesAdvanceByCost : Obligations.CyclesAdvanceByCost := by
  unfold Obligations.CyclesAdvanceByCost
  intro i s t notPrefix run noFault
  cases effect_of_exec notPrefix run with
  | fault e => cases noFault
  | ran => rfl

/-- What a read gives is none of the CPU's own state. -/
theorem stored_withOwn (s : State) (g : Regs) (n : Nat) (ime : Bool) (d : Nat) (halted : Bool) (a : Word) :
    State.stored { s with regs := g, cycles := n, ime := ime, imeDelay := d, halted := halted } a = s.stored a := rfl

/-- Settles O10: the bus actions of an effect store to the listed addresses alone. -/
theorem memoryFrame : Obligations.MemoryFrame := by
  unfold Obligations.MemoryFrame
  intro i s t notPrefix q run a others cart
  cases effect_of_exec notPrefix run with
  | fault e => rfl
  | ran acts g ime d halted stores =>
    rw [← stores] at others cart
    rw [stored_withOwn]
    exact stored_runBus acts s q a others cart

/-! ## The gate and the halt -/

/-- R112: none of the prefixed instructions touches the interrupt gate or halts. -/
theorem prefixedInstr_ne_gate : ∀ op2 : Byte, prefixedInstr op2 ≠ .di ∧ prefixedInstr op2 ≠ .ei ∧
    prefixedInstr op2 ≠ .reti ∧ prefixedInstr op2 ≠ .halt := by decide +kernel

section
variable {i : Instr} {s t : State}

theorem Gate.kept_of_ne {ime : Bool} {d : Nat} (gate : Gate i s ime d) (notDi : i ≠ .di) (notEi : i ≠ .ei)
    (notReti : i ≠ .reti) : ime = s.ime ∧ d = s.imeDelay := by
  cases gate with
  | kept => exact ⟨rfl, rfl⟩
  | shut h => exact absurd h notDi
  | opened h => exact absurd h notReti
  | counted h => exact absurd h notEi
  | atOnce h => exact absurd h notEi

theorem Effect.gate (k : Effect i s t) : Gate i s t.ime t.imeDelay := by
  cases k with
  | fault e => exact .kept
  | ran _ _ _ _ _ _ _ gate => exact gate

theorem Effect.halted (k : Effect i s t) : t.halted = s.halted ∨ i = .halt := by
  cases k with
  | fault e => exact .inl rfl
  | ran _ _ _ _ _ _ _ _ halt => exact halt

/-- What any instruction, a bare `0xCB` included, makes of the interrupt gate and of the halt. -/
theorem gate_of_exec (run : exec i s = .next t) :
    Gate i s t.ime t.imeDelay ∧ (t.halted = s.halted ∨ i = .halt) := by
  by_cases hi : i = .prefixCb
  · subst hi
    rcases exec_prefixCb s with ⟨-, faults⟩ | ⟨-, runs⟩
    · rw [faults] at run
      cases run
      exact ⟨.kept, .inl rfl⟩
    · obtain ⟨notDi, notEi, notReti, notHalt⟩ := prefixedInstr_ne_gate (s.yield.peek (s.regs.pc + 1))
      have k := effect_of_exec (prefixedInstr_ne _) (runs ▸ run)
      obtain ⟨ime, delay⟩ := k.gate.kept_of_ne notDi notEi notReti
      rw [ime, delay, State.afterRead_ime, State.afterRead_imeDelay]
      exact ⟨.kept, .inl ((k.halted.resolve_right notHalt).trans s.afterRead_halted)⟩
  · have k := effect_of_exec hi run
    exact ⟨k.gate, k.halted⟩

/-- R38, R39: with no other agent moving a latch is fired by a store to its register alone. -/
theorem latches_of_exec (q : s.quiet = true) (notPrefix : i ≠ .prefixCb) (run : exec i s = .next t) :
    ((∀ b ∈ storesOf i s, b ≠ 0xFF0F) → t.irqLatch = s.irqLatch) ∧
      ((∀ b ∈ storesOf i s, b ≠ 0xFF07) → t.timerEnableLatch = s.timerEnableLatch) := by
  cases effect_of_exec notPrefix run with
  | fault e => exact ⟨fun _ => rfl, fun _ => rfl⟩
  | ran acts g ime d halted stores =>
    rw [← stores]
    exact latches_runBus acts s q

end

/-- Settles O11: the engines by the frame of the bus actions, the gate, the halt and the latches by the effect. -/
theorem engineFrame : Obligations.EngineFrame := by
  unfold Obligations.EngineFrame
  intro i s t q run
  have e : SameEngines s t := .of_exec q run
  obtain ⟨gate, halt⟩ := gate_of_exec run
  exact ⟨e.timer, e.ppu, e.framebuffer, e.joypad, e.stepMode, e.hostPos, e.params, e.turns, e.cpuParked, e.cpuPos,
    e.ly, e.mode, e.coincidence, gate.kept_of_ne, halt.resolve_right,
    fun notPrefix => (latches_of_exec q notPrefix run).1, fun notPrefix => (latches_of_exec q notPrefix run).2⟩

/-! ## The gate instructions and the countdown (R270 to R273) -/

section
variable {s : State}

theorem countImeDelay_zero (still : s.imeDelay = 0) : s.countImeDelay = s := by
  simp [State.countImeDelay, still]

theorem countImeDelay_one (noFault : s.cpuFault = none) (last : s.imeDelay = 1) :
    s.countImeDelay = { s with imeDelay := 0, ime := true } := by
  simp [State.countImeDelay, noFault, last]

theorem countImeDelay_more (noFault : s.cpuFault = none) (more : 2 ≤ s.imeDelay) :
    s.countImeDelay = { s with imeDelay := s.imeDelay - 1 } := by
  have running : s.imeDelay ≠ 0 := by omega
  have notLast : s.imeDelay ≠ 1 := by omega
  simp [State.countImeDelay, noFault, running, notLast]

/-- R272: `EI` by the parameter and by whether the gate is closed with no countdown running. -/
theorem exec_ei (s : State) : exec .ei s = .next (
    if s.params.eiDelay = true then
      (if s.ime = false ∧ s.imeDelay = 0 then { s.ended s.regs 1 1 with imeDelay := 2 } else s.ended s.regs 1 1)
    else { s.ended s.regs 1 1 with ime := true }) := by
  have run : exec .ei s = .next (s.enableInterrupts.advance 1 1) := rfl
  rw [run, State.enableInterrupts]
  split
  · split <;> rfl
  · rfl

end

/-- Settles O28: three meanings that write what they name, `EI` by its cases, and the countdown by its length. -/
theorem gateInstructions : Obligations.GateInstructions := by
  unfold Obligations.GateInstructions
  exact ⟨⟨rfl, rfl, rfl⟩, ⟨rfl, rfl, rfl⟩, ⟨rfl, rfl, rfl⟩, ⟨rfl, rfl, rfl⟩, fun s => ⟨rfl, rfl, rfl, exec_ei s,
    fun noFault => ⟨countImeDelay_zero, countImeDelay_one noFault, countImeDelay_more noFault⟩⟩⟩

/-- Settles O29: the countdown is 2 after `EI` and 1 after its iteration; the next instruction leaves it so, or opens
the gate itself (`RETI`). -/
theorem gateOpensAfterNext : Obligations.GateOpensAfterNext := by
  unfold Obligations.GateOpensAfterNext
  intro s t u j delayed shut still noFault first second noFault' notDi
  have counting : t = { s.ended s.regs 1 1 with imeDelay := 2 } := by
    rw [exec_ei, if_pos delayed, if_pos ⟨shut, still⟩] at first
    exact (Host.Outcome.next.inj first).symm
  have last : t.countImeDelay = { s.ended s.regs 1 1 with imeDelay := 1 } := by
    rw [counting]
    exact countImeDelay_more noFault (Nat.le_refl 2)
  rw [last] at second ⊢
  refine ⟨shut, ?_⟩
  obtain ⟨gate, -⟩ := gate_of_exec second
  have opened (h : u.imeDelay = 1) : u.countImeDelay.ime = true := by rw [countImeDelay_one noFault' h]
  generalize hime : u.ime = ime at gate
  generalize hd : u.imeDelay = d at gate
  cases gate with
  | kept => exact opened hd
  | shut h => exact absurd h notDi
  | opened h =>
    rw [countImeDelay_zero hd]
    exact hime
  | counted _ _ _ none => cases none
  | atOnce _ undelayed => exact absurd (delayed.symm.trans undelayed) nofun

/-! ## `0xCB` on its own (R275) -/

/-- Settles O31: the fault at the end of the address space, and elsewhere the instruction of the prefixed table. -/
theorem prefixCbAlone : Obligations.Prefix := by
  unfold Obligations.Prefix
  intro s
  rcases exec_prefixCb s with ⟨atEnd, faults⟩ | ⟨before, runs⟩
  · refine ⟨fun _ => ?_, fun h => absurd atEnd h⟩
    rw [faults, atEnd]
    rfl
  · have notPrefix := prefixedInstr_ne (s.yield.peek (s.regs.pc + 1))
    obtain ⟨t, run⟩ := exec_answers (prefixedInstr (s.yield.peek (s.regs.pc + 1))) s.afterRead
    exact ⟨fun h => absurd h before, fun _ => ⟨_, t, rfl, notPrefix, run, runs.trans run⟩⟩

/-! ## Every step answers -/

section
variable (s : State)

theorem decodeAndExecute_answers : ∃ t, s.decodeAndExecute = .next t := by
  unfold State.decodeAndExecute
  dsimp only
  split
  · exact ⟨_, rfl⟩
  · split
    next i _ _ =>
      obtain ⟨t, run⟩ := exec_answers i
        ((s.busRead s.regs.pc).2.readCode (s.regs.pc + 1) (opLength (s.busRead s.regs.pc).1 - 1)).2
      exact ⟨_, Answer.andThen_eq_next.2 ⟨t, run, rfl⟩⟩
    next => exact ⟨_, rfl⟩

theorem iteration_answers : ∃ t, s.iteration = .next t := by
  unfold State.iteration
  split
  · exact decodeAndExecute_answers _
  · dsimp only
    split
    · exact ⟨_, rfl⟩
    · exact decodeAndExecute_answers _

theorem referencePass_answers : ∃ t, s.referencePass = .next t := by
  unfold State.referencePass
  split
  · obtain ⟨t, run⟩ := iteration_answers s
    exact ⟨_, Answer.andThen_eq_next.2 ⟨t, run, rfl⟩⟩
  · exact ⟨_, rfl⟩

theorem freeStep_answers : ∃ t, s.freeStep = .next t := by
  unfold State.freeStep
  split
  · exact referencePass_answers _
  · split
    · exact iteration_answers s
    · exact ⟨_, rfl⟩
  · exact ⟨_, rfl⟩

end

/-- Settles O39: a pass of the reference schedule answers, and so does a turn of the free one. -/
theorem everyStepAnswers : Obligations.EveryStepAnswers := by
  unfold Obligations.EveryStepAnswers
  intro s
  unfold step
  split
  · exact referencePass_answers _
  · exact freeStep_answers s

end Sys2Proof.Machine
end

section
/-! PROOF. What a CPU write stores in each designated register (O42). -/

namespace Sys2Proof.Machine

/-- R69: a CPU write to a designated register of the I/O page. -/
theorem poke_at (s : State) {n : IoName} (h : n ≠ .ie) (v : Byte) : s.poke n.at v = s.pokeIo n v := by
  cases n
  case ie => exact absurd rfl h
  all_goals rfl

/-! ## The stored bits of a written byte -/

theorem extractLsb'_eq_ofNat (v : Byte) (start len : Nat) :
    v.extractLsb' start len = BitVec.ofNat len (v.toNat / 2 ^ start) := by
  rw [BitVec.extractLsb', Nat.shiftRight_eq_div_pow]

/-- R39: the bits that may fire the interrupt-received latch are the stored ones. -/
theorem requestsWritten_eq : ∀ v : Byte, ((v &&& 0x1F) != 0) = decide (v.toNat % 32 ≠ 0) := by decide +kernel

/-- R42: bits 6 to 3 of `STAT` are stored as written, and below them the register keeps its own. -/
theorem statWritten_eq (v : Byte) (w : BitVec 7) :
    ((v &&& 0x78) ||| (w.setWidth 8 &&& 0x07)).extractLsb' 0 7
      = BitVec.ofNat 7 (v.toNat / 8 % 16 * 8 + w.toNat % 8) := by
  have written : ∀ v : Byte, (v &&& 0x78).toNat = 2 ^ 3 * (v.toNat / 8 % 16) := by decide +kernel
  have kept : ∀ w : BitVec 7, (w.setWidth 8 &&& (0x07 : Byte)).toNat = w.toNat % 8 := by decide +kernel
  have below : w.toNat % 8 < 2 ^ 3 := Nat.mod_lt _ (by decide)
  rw [extractLsb'_eq_ofNat, BitVec.toNat_or, written, kept, ← Nat.two_pow_add_eq_or_of_lt below, Nat.mul_comm,
    Nat.pow_zero, Nat.div_one]

/-- Settles O42: twelve registers store the whole byte, `LY` ignores it, and the other four store their own bits. -/
theorem registerWrites : Obligations.RegisterWrites := by
  unfold Obligations.RegisterWrites
  intro s v
  have at_ {n : IoName} (h : n ≠ .ie) := poke_at s h v
  refine ⟨(at_ (n := .p1) nofun).trans ?p1, at_ (n := .tima) nofun, at_ (n := .tma) nofun,
    (at_ (n := .tac) nofun).trans ?tac, (at_ (n := .ifr) nofun).trans ?ifr, at_ (n := .lcdc) nofun,
    (at_ (n := .stat) nofun).trans ?stat, at_ (n := .scy) nofun, at_ (n := .scx) nofun, at_ (n := .ly) nofun,
    at_ (n := .lyc) nofun, at_ (n := .bgp) nofun, at_ (n := .obp0) nofun, at_ (n := .obp1) nofun,
    at_ (n := .wy) nofun, at_ (n := .wx) nofun, rfl⟩
  case p1 => exact congrArg (fun x => { s with io := { s.io with p1Sel := x } }) (extractLsb'_eq_ofNat v 4 2)
  case tac => rfl
  case ifr =>
    rw [← requestsWritten_eq]
    rfl
  case stat => exact congrArg (fun x => { s with io := { s.io with stat := x } }) (statWritten_eq v s.io.stat)

end Sys2Proof.Machine
end

section
/-! PROOF. The launch: the values at reset (O56), the invariant there (O58), and the launch from a record (O57). -/

namespace Sys2Proof.Machine

/-! ## Reset -/

/-- Settles O56: the values of the table, one by one. -/
theorem launchValues : Obligations.LaunchValues := by
  unfold Obligations.LaunchValues
  exact ⟨rfl, rfl, rfl, rfl, rfl, rfl, rfl, rfl, rfl, rfl, rfl, rfl, rfl, rfl, rfl, rfl, rfl, rfl, rfl, rfl, rfl, rfl,
    rfl, rfl, rfl, rfl, rfl, rfl, rfl, rfl, rfl, rfl, rfl, rfl⟩

/-- Settles O58: the first phase is OAM-search of line 0, and nothing is listed or under way. -/
theorem invAtReset : Obligations.InvAtReset := by
  unfold Obligations.InvAtReset
  exact {
    memory := wf_reset
    flagsLow := rfl
    delayRange := Nat.zero_le 2
    delayGate := fun running => absurd rfl running
    delayParam := fun _ => rfl
    timerDiv := by decide
    divCount := by decide
    objects := Nat.zero_le 10
    lines := ⟨Nat.zero_le 143, Nat.zero_le _⟩
    modeFlag := trivial
    composed := nofun
    lineLength := nofun
    pictureRising := rfl
    pictureLines := nofun
    parked := nofun }

/-! ## Where the PPU starts -/

theorem mode_cases : ∀ m : BitVec 2, m = 0 ∨ m = 1 ∨ m = 2 ∨ m = 3 := by decide

section
variable {ly : Byte} {mode : BitVec 2}

/-- U24: the PPU has no place to start exactly where the line does not exist or the mode does not fit it. -/
theorem launchPos_eq_none_iff :
    launchPos ly mode = none ↔
      153 < ly.toNat ∨ (144 ≤ ly.toNat ∧ mode ≠ 1) ∨ (1 ≤ ly.toNat ∧ ly.toNat ≤ 143 ∧ mode = 1) := by
  have first : ly = 0#8 ↔ ly.toNat = 0 := BitVec.toNat_inj.symm
  unfold launchPos
  rcases Nat.lt_or_ge 143 ly.toNat with low | visible
  · rw [if_neg (by omega)]
    rcases Nat.lt_or_ge 153 ly.toNat with past | real
    · rw [if_neg (by omega)]
      simp [past]
    · rw [if_pos real]
      rcases mode_cases mode with rfl | rfl | rfl | rfl <;> simp <;> omega
  · rw [if_pos visible]
    rcases mode_cases mode with rfl | rfl | rfl | rfl
    · simp; omega
    · simp [first]; omega
    · simp; omega
    · simp; omega

/-- Where the PPU starts: before or within a phase of a visible line, or in the hold of a VBlank line. -/
theorem launchPos_cases {pos : PpuPos} (h : launchPos ly mode = some pos) :
    (ly.toNat ≤ 143 ∧ ((mode = 0 ∧ pos = .hBlank .hold) ∨ pos = .oamSearch .start ∨ pos = .pixelTransfer .start)) ∨
      (144 ≤ ly.toNat ∧ ly.toNat ≤ 153 ∧ mode = 1 ∧ pos = .vBlank .hold) := by
  unfold launchPos at h
  split at h
  next visible =>
    refine .inl ⟨visible, ?_⟩
    rcases mode_cases mode with rfl | rfl | rfl | rfl <;> simp at h <;> simp [h]
  next =>
    split at h
    next =>
      rcases mode_cases mode with rfl | rfl | rfl | rfl <;> simp at h
      refine .inr ⟨by omega, by omega, rfl, h.symm⟩
    next => cases h

end

/-! ## Which records are launched -/

theorem lowNibble_eq_zero_iff : ∀ f : Byte, f &&& 0x0F = 0 ↔ f.toNat % 16 = 0 := by decide +kernel

theorem LaunchRecord.legal_iff (r : LaunchRecord) :
    r.legal = true ↔
      r.regs.f.toNat % 16 = 0 ∧ r.imeDelay = 0 ∧ r.cpuFault = none ∧ Memory.wf r.mem = true := by
  rw [← lowNibble_eq_zero_iff]
  simp [LaunchRecord.legal, and_assoc]

theorem launch_refused {r : LaunchRecord} (h : launchPos r.io.ly r.io.mode = none ∨ ¬ r.legal = true) :
    launch r = .refused .launchRecord := by
  unfold launch
  rcases h with h | h <;> simp [h]

theorem launch_launched {r : LaunchRecord} {pos : PpuPos} (legal : r.legal = true)
    (starts : launchPos r.io.ly r.io.mode = some pos) : launch r = .next (launchState r pos) := by
  simp [launch, legal, starts]

/-- The launched state has the invariant: the record gives the canonical memory and the masked `F`, and the line fits
the PPU's position. -/
theorem inv_launchState {r : LaunchRecord} {pos : PpuPos} (legal : r.legal = true)
    (starts : launchPos r.io.ly r.io.mode = some pos) : Inv (launchState r pos) := by
  obtain ⟨flags, -, -, canonical⟩ := r.legal_iff.mp legal
  have fits : linesOk pos r.io.ly.toNat 0 (r.io.ly.toNat - 144) 0 ∧ modeOk pos r.io.mode := by
    rcases launchPos_cases starts with ⟨visible, ⟨mode, rfl⟩ | rfl | rfl⟩ | ⟨low, high, mode, rfl⟩
    · exact ⟨⟨visible, Nat.zero_le _⟩, mode⟩
    · exact ⟨⟨visible, Nat.zero_le _⟩, trivial⟩
    · exact ⟨⟨visible, Nat.zero_le _⟩, trivial⟩
    · exact ⟨⟨by omega, by omega, Nat.zero_le _⟩, mode⟩
  have between : pos.composing = false ∧ pos ≠ .pixelTransfer .write := by
    rcases launchPos_cases starts with ⟨-, ⟨-, rfl⟩ | rfl | rfl⟩ | ⟨-, -, -, rfl⟩ <;> exact ⟨rfl, nofun⟩
  exact {
    memory := canonical
    flagsLow := (lowNibble_eq_zero_iff _).mpr flags
    delayRange := Nat.zero_le 2
    delayGate := fun running => absurd rfl running
    delayParam := fun _ => rfl
    timerDiv := Nat.zero_lt_succ 255
    divCount := Nat.zero_lt_succ 63
    objects := Nat.zero_le 10
    lines := fits.1
    modeFlag := fits.2
    composed := fun h => absurd (between.1.symm.trans h) nofun
    lineLength := fun h => absurd h between.2
    pictureRising := rfl
    pictureLines := nofun
    parked := nofun }

theorem phase_of_launchPos {ly : Byte} {mode : BitVec 2} {pos : PpuPos} (starts : launchPos ly mode = some pos) :
    pos.phase = .vBlank ↔ 144 ≤ ly.toNat := by
  rcases launchPos_cases starts with ⟨visible, ⟨-, rfl⟩ | rfl | rfl⟩ | ⟨low, -, -, rfl⟩ <;>
    simp [PpuPos.phase] <;> omega

/-- A record is broken exactly where one of the two tests of `launch` fails. -/
theorem broken_iff (r : LaunchRecord) :
    (153 < r.io.ly.toNat ∨ (144 ≤ r.io.ly.toNat ∧ r.io.mode ≠ 1) ∨
      (1 ≤ r.io.ly.toNat ∧ r.io.ly.toNat ≤ 143 ∧ r.io.mode = 1) ∨ r.regs.f.toNat % 16 ≠ 0 ∨ r.imeDelay ≠ 0 ∨
      r.cpuFault ≠ none ∨ Memory.wf r.mem = false) ↔
    launchPos r.io.ly r.io.mode = none ∨ ¬ r.legal = true := by
  rw [launchPos_eq_none_iff, r.legal_iff, ← Bool.not_eq_true (Memory.wf r.mem)]
  tauto

/-- Settles O57: a record is refused by one of its two tests, or launched where the second one says. -/
theorem launchFromRecord : Obligations.Launch := by
  unfold Obligations.Launch
  refine ⟨fun r => ?record, fun q => ?snapshot⟩
  case record =>
    dsimp only
    rw [broken_iff]
    refine ⟨launch_refused, fun sound => ?launched⟩
    obtain ⟨starts, legal⟩ := not_or.mp sound
    obtain ⟨pos, starts⟩ := Option.ne_none_iff_exists'.mp starts
    have legal := not_not.mp legal
    refine ⟨launchState r pos, launch_launched legal starts, inv_launchState legal starts, rfl, rfl, rfl, rfl, rfl,
      rfl, rfl, rfl, rfl, ?latch, ?timer, rfl, rfl, rfl, phase_of_launchPos starts⟩
    case latch => simp [launchState]
    case timer => cases enable : r.io.timerEnable <;> simp [launchState, enable]
  case snapshot =>
    exact ⟨joined_hi_maskF_lo q.af, joined_hi_lo q.bc, joined_hi_lo q.de, joined_hi_lo q.hl, rfl, rfl,
      (lowNibble_eq_zero_iff _).mp (maskF_low _), rfl, rfl, rfl, rfl, rfl, rfl⟩

end Sys2Proof.Machine
end

section
/-! PROOF. The idle cycle (O54) and the debug gate (O55): what a turn and a cycle of an engine are, by its parking, its
position and `step_mode`. -/

namespace Sys2Proof.Machine

section
variable {s : State} {gate : Bool}

/-! ## A turn and a cycle of the PPU -/

/-- The boundaries at which the PPU parks (R368, R402, R408). -/
theorem isBoundary_iff (pos : PpuPos) : pos.isBoundary = true ↔
    pos ∈ [.oamSearch .start, .pixelTransfer .start, .hBlank .start, .vBlank .start, .vBlank .lineStart] := by
  cases pos with
  | oamSearch p | pixelTransfer p | hBlank p | vBlank p => cases p <;> simp [PpuPos.isBoundary]

/-- A hold is none of the boundaries. -/
theorem isBoundary_of_isHold {pos : PpuPos} (hold : pos.isHold = true) : pos.isBoundary = false := by
  cases pos with
  | oamSearch p | pixelTransfer p | hBlank p | vBlank p =>
    cases p with
    | hold => rfl
    | _ => cases hold

theorem ppuToHold_of_isHold (hold : s.ppu.pos.isHold = true) (stop : Bool) (n : Nat) : s.ppuToHold stop n = s := by
  cases n <;> simp [State.ppuToHold, hold]

theorem ppuToHold_of_isBoundary (boundary : s.ppu.pos.isBoundary = true) (n : Nat) : s.ppuToHold true n = s := by
  cases n <;> simp [State.ppuToHold, boundary]

theorem ppuAction_parked (parked : s.ppu.parked = true) : s.ppuAction = s := by
  simp [State.ppuAction, parked]

/-- R408: at a boundary with `step_mode` set the PPU parks. -/
theorem ppuAction_parks (unparked : s.ppu.parked = false) (stepping : s.stepMode = true)
    (boundary : s.ppu.pos.isBoundary = true) : s.ppuAction = s.parkPpu := by
  simp [State.ppuAction, unparked, stepping, boundary]

theorem ppuAction_moves (unparked : s.ppu.parked = false)
    (going : s.stepMode = false ∨ s.ppu.pos.isBoundary = false) : s.ppuAction = s.ppuMove := by
  rcases going with h | h <;> simp [State.ppuAction, unparked, h]

theorem ppuCycle_parked (parked : s.ppu.parked = true) : s.ppuCycle gate = s := by
  simp [State.ppuCycle, parked]

theorem ppuCycle_parks (unparked : s.ppu.parked = false) (stepping : s.stepMode = true)
    (boundary : s.ppu.pos.isBoundary = true) : s.ppuCycle true = s.parkPpu := by
  simp [State.ppuCycle, unparked, stepping, boundary, ppuToHold_of_isBoundary boundary]

/-- R402: below the budget a cycle of a PPU that holds is counted. -/
theorem ppuCycle_counts (unparked : s.ppu.parked = false) (hold : s.ppu.pos.isHold = true)
    (below : s.ppu.dot + 1 ≠ s.ppuBudget) :
    s.ppuCycle gate = { s with ppu := { s.ppu with dot := s.ppu.dot + 1 } } := by
  simp [State.ppuCycle, unparked, ppuToHold_of_isHold hold, isBoundary_of_isHold hold, below]

/-- R402: at the budget the actions up to the next boundary are taken, and there the PPU parks or goes on. -/
theorem ppuCycle_ends (unparked : s.ppu.parked = false) (hold : s.ppu.pos.isHold = true)
    (spent : s.ppu.dot + 1 = s.ppuBudget) :
    s.ppuCycle gate = if gate && s.stepMode then (s.ppuMove.ppuToBoundary ppuFuel).parkPpu
      else (s.ppuMove.ppuToBoundary ppuFuel).ppuToHold false ppuFuel := by
  simp [State.ppuCycle, unparked, ppuToHold_of_isHold hold, isBoundary_of_isHold hold, spent]

/-! ## A turn and a cycle of the Timer -/

/-- The positions at which the Timer parks (R408). -/
theorem atRest_iff (pos : TimerPos) : pos.atRest = true ↔ pos = .blocked ∨ pos = .counting := by
  cases pos <;> simp [TimerPos.atRest]

theorem timerToRest_of_atRest (rest : s.timer.pos.atRest = true) (n : Nat) : s.timerToRest n = s := by
  cases n <;> simp [State.timerToRest, rest]

theorem timerAction_parked (parked : s.timer.parked = true) : s.timerAction = s := by
  simp [State.timerAction, parked]

theorem timerAction_parks (unparked : s.timer.parked = false) (stepping : s.stepMode = true)
    (rest : s.timer.pos.atRest = true) : s.timerAction = s.parkTimer := by
  simp [State.timerAction, unparked, stepping, rest]

theorem timerAction_moves (unparked : s.timer.parked = false)
    (going : s.stepMode = false ∨ s.timer.pos.atRest = false) : s.timerAction = s.timerMove := by
  rcases going with h | h <;> simp [State.timerAction, unparked, h]

theorem divAction_parked (parked : s.timer.parked = true) : s.divAction = s := by
  simp [State.divAction, parked]

theorem divAction_counts (unparked : s.timer.parked = false) : s.divAction = s.divCycle := by
  simp [State.divAction, unparked]

theorem timerCycle_parked (parked : s.timer.parked = true) : s.timerCycle gate = s := by
  simp [State.timerCycle, parked]

theorem timerCycle_parks (unparked : s.timer.parked = false) (stepping : s.stepMode = true)
    (rest : s.timer.pos.atRest = true) : s.timerCycle true = s.parkTimer := by
  simp [State.timerCycle, unparked, stepping, timerToRest_of_atRest rest]

/-! ## A pass in which the CPU takes no iteration -/

theorem referencePass_idle (still : s.cpuCanStep = false) :
    s.referencePass = .next ((s.timerCycle true).ppuCycle true) := by
  rw [State.referencePass, if_neg (by simp [still])]
  simp only [State.engineCycles, State.timerCycles, State.ppuCycles]

/-- Settles O54: no turn is listed, so the step is a pass of the reference schedule. -/
theorem idleCycle : Obligations.IdleCycle := by
  unfold Obligations.IdleCycle
  intro s none still
  have same : SameCpu s ((s.settle.timerCycle true).ppuCycle true) :=
    ((sameCpu_settle s).trans (sameCpu_timerCycle _ _)).trans (sameCpu_ppuCycle _ _)
  exact ⟨_, (step_of_noTurn none).trans (referencePass_idle still), rfl, same.cycles, same.regs⟩

/-! ## The debug gate of the CPU -/

/-- R408: a CPU that finds `step_mode` set at step 3 parks before its decode. -/
theorem iteration_parks (top : s.cpuPos = .top) (stepping : s.beforeDecode.others.stepMode = true) :
    s.iteration = .next { s.beforeDecode.others with cpuParked := true, cpuPos := .decode } := by
  simp [State.iteration, top, stepping]

theorem iteration_resumed (decode : s.cpuPos = .decode) :
    s.iteration = { s with cpuPos := .top }.decodeAndExecute := by
  simp [State.iteration, decode]

/-- Log entry 12: the engines test `step_mode` in the cycles of a pass after which the CPU parks. -/
theorem referencePass_of_iteration {t : State} (can : s.cpuCanStep = true) (run : s.iteration = .next t) :
    s.referencePass = .next (t.engineCycles (t.freeGate || t.cpuParked) (t.cycles - s.cycles)) := by
  rw [State.referencePass, if_pos can, run, Answer.andThen]

theorem settle_idle (idle : s.hostPos = .idle) :
    s.settle = if s.ppu.parked then s else s.ppuToHold (s.settleGate && s.stepMode) ppuFuel := by
  rw [State.settle, hostFinish_idle idle]

/-- R408: with every agent parked a step changes nothing. -/
theorem step_parked (cpu : s.cpuParked = true) (timer : s.timer.parked = true) (ppu : s.ppu.parked = true)
    (none : s.turns = []) (idle : s.hostPos = .idle) : step s = .next s := by
  have settled : s.settle = s := by rw [settle_idle idle, if_pos ppu]
  have still : s.cpuCanStep = false := by simp [State.cpuCanStep, cpu]
  rw [step_of_noTurn none, settled, referencePass_idle still, timerCycle_parked timer, ppuCycle_parked ppu]

end

/-- Settles O55: agent by agent. -/
theorem debugGate : Obligations.DebugGate := by
  unfold Obligations.DebugGate
  intro s
  refine ⟨fun top stepping => ⟨iteration_parks top stepping, fun can => ?cpuParks⟩, iteration_resumed,
    fun unparked stepping => ?ppu, fun unparked stepping => ?timer,
    fun unparked going => ppuAction_moves unparked (.inl going),
    fun unparked going => timerAction_moves unparked (.inl going), divAction_counts,
    fun parked => ⟨ppuAction_parked parked, ppuCycle_parked parked, ppuCycle_parked parked⟩,
    fun parked => ⟨timerAction_parked parked, divAction_parked parked, timerCycle_parked parked,
      timerCycle_parked parked⟩,
    fun idle => ?host, fun idle lockstep decode cpu ppu => ?settle, step_parked⟩
  case cpuParks =>
    rw [referencePass_of_iteration can (iteration_parks top stepping)]
    simp
  case ppu =>
    rw [← isBoundary_iff]
    refine ⟨fun boundary => ⟨ppuAction_parks unparked stepping boundary, ppuCycle_parks unparked stepping boundary⟩,
      fun inside => ppuAction_moves unparked (.inr (by simpa using inside)),
      fun hold => ⟨ppuCycle_counts unparked hold, fun spent => ?_⟩⟩
    rw [ppuCycle_ends unparked hold spent, if_pos (by simp [stepping]), State.parkPpu]
  case timer =>
    refine ⟨fun rest => ?_, fun notBlocked notCounting => timerAction_moves unparked (.inr ?_)⟩
    · have rest := (atRest_iff _).mpr rest
      exact ⟨timerAction_parks unparked stepping rest, timerCycle_parks unparked stepping rest⟩
    · simp [← Bool.not_eq_true, atRest_iff, notBlocked, notCounting]
  case host => simp [State.hostAction, hostFinish_idle idle]
  case settle =>
    have ungated : s.settleGate = false := by simp [State.settleGate, State.freeGate, lockstep, decode, cpu]
    simp [settle_idle idle, ppu, ungated]

end Sys2Proof.Machine
end

section
/-! PROOF. The objects of a line (O45) and their order (O46). -/

namespace Sys2Proof.Machine

/-! ## Selection (R347, R348) -/

section
variable {rd : Nat → Byte} {tall : Bool} {ly : Byte} {o : ObjEntry}

theorem coversLine_iff : o.coversLine tall ly = true ↔ coversLine o tall ly.toNat := by
  cases tall <;> simp [ObjEntry.coversLine, coversLine, objHeight]

/-- The entries of OAM that cover a line, in index order. -/
def coveringObjs (rd : Nat → Byte) (tall : Bool) (ly : Byte) : List ObjEntry :=
  ((List.range 40).map (objEntry rd)).filter (fun o => o.coversLine tall ly)

theorem selectObjs_eq (rd : Nat → Byte) (tall : Bool) (ly : Byte) :
    selectObjs rd tall ly = (coveringObjs rd tall ly).take 10 := rfl

theorem mem_coveringObjs :
    o ∈ coveringObjs rd tall ly ↔ (o.index < 40 ∧ o = objEntry rd o.index) ∧ coversLine o tall ly.toNat := by
  rw [coveringObjs, List.mem_filter, coversLine_iff, List.mem_map]
  refine and_congr_left fun _ => ⟨?_, fun ⟨listed, same⟩ => ⟨o.index, List.mem_range.mpr listed, same.symm⟩⟩
  rintro ⟨k, listed, rfl⟩
  exact ⟨List.mem_range.mp listed, rfl⟩

theorem coveringObjs_rising : (coveringObjs rd tall ly).Pairwise (fun o p => o.index < p.index) := by
  refine List.Pairwise.filter _ (List.pairwise_map.mpr ?_)
  exact List.pairwise_lt_range

/-- Of a list in rising index order, an entry that is not among the first `n` comes after `n` of them. -/
theorem take_of_not_mem {l : List ObjEntry} (rising : l.Pairwise (fun o p => o.index < p.index)) {n : Nat}
    (listed : o ∈ l) (left : o ∉ l.take n) :
    (l.take n).length = n ∧ ∀ p ∈ l.take n, p.index < o.index := by
  rw [← List.take_append_drop n l] at listed rising
  have later : o ∈ l.drop n := (List.mem_append.mp listed).resolve_left left
  refine ⟨?_, fun p first => (List.pairwise_append.mp rising).2.2 p first o later⟩
  have rest := List.length_pos_of_mem later
  rw [List.length_drop] at rest
  rw [List.length_take]
  omega

/-- Settles O45: the selection is the first ten of the covering entries. -/
theorem objectSelection : Obligations.ObjectSelection := by
  unfold Obligations.ObjectSelection
  intro rd tall ly
  have rising := coveringObjs_rising (rd := rd) (tall := tall) (ly := ly)
  rw [selectObjs_eq]
  refine ⟨fun k _ => ⟨rfl, ?x, ?tile, ?flags, rfl⟩, List.length_take_le 10 _, fun o selected => ?covers, ?rising,
    fun k listed covers left => take_of_not_mem rising (mem_coveringObjs.mpr ⟨⟨listed, rfl⟩, covers⟩) left⟩
  case x => exact congrArg rd (by omega)
  case tile => exact congrArg rd (by omega)
  case flags => exact congrArg rd (by omega)
  case covers =>
    obtain ⟨⟨listed, same⟩, covers⟩ := mem_coveringObjs.mp (List.mem_of_mem_take selected)
    exact ⟨listed, same, covers⟩
  case rising => exact List.pairwise_map.mpr (rising.sublist (List.take_sublist 10 _))

/-! ## Order (R349) -/

theorem before_iff {p : ObjEntry} : o.before p = true ↔ higherPriority o p := by
  simp [ObjEntry.before, higherPriority]

end

section
variable {o p q : ObjEntry}

theorem higherPriority.trans (h : higherPriority o p) (k : higherPriority p q) : higherPriority o q := by
  simp only [higherPriority, ← BitVec.toNat_inj] at *
  omega

/-- Of two objects with different indices one has the higher priority. -/
theorem higherPriority_of_not (index : o.index ≠ p.index) (h : ¬ higherPriority o p) : higherPriority p o := by
  simp only [higherPriority, ← BitVec.toNat_inj] at *
  omega

theorem insertObj_perm (o : ObjEntry) (l : List ObjEntry) : (insertObj o l).Perm (o :: l) := by
  induction l with
  | nil => exact .refl _
  | cons p r ih =>
    unfold insertObj
    split
    · exact .refl _
    · exact (ih.cons p).trans (.swap o p r)

theorem sortObjs_perm (l : List ObjEntry) : (sortObjs l).Perm l := by
  induction l with
  | nil => exact .refl _
  | cons o r ih => exact (insertObj_perm o _).trans (ih.cons o)

theorem insertObj_sorted {l : List ObjEntry} (sorted : l.Pairwise higherPriority)
    (other : ∀ p ∈ l, o.index ≠ p.index) : (insertObj o l).Pairwise higherPriority := by
  induction l with
  | nil => exact List.pairwise_singleton _ _
  | cons p r ih =>
    obtain ⟨first, rest⟩ := List.pairwise_cons.mp sorted
    unfold insertObj
    split
    next h =>
      have h := before_iff.mp h
      refine List.pairwise_cons.mpr ⟨fun q hq => ?_, sorted⟩
      rcases List.mem_cons.mp hq with rfl | hq
      · exact h
      · exact h.trans (first q hq)
    next h =>
      have h := higherPriority_of_not (other p (List.mem_cons_self ..)) (mt before_iff.mpr h)
      refine List.pairwise_cons.mpr ⟨fun q hq => ?_, ih rest fun q hq => other q (List.mem_cons_of_mem p hq)⟩
      rcases List.mem_cons.mp ((insertObj_perm o r).mem_iff.mp hq) with rfl | hq
      · exact h
      · exact first q hq

theorem sortObjs_sorted {l : List ObjEntry} (distinct : l.Pairwise (fun o p => o.index ≠ p.index)) :
    (sortObjs l).Pairwise higherPriority := by
  induction l with
  | nil => exact .nil
  | cons o r ih =>
    obtain ⟨other, rest⟩ := List.pairwise_cons.mp distinct
    exact insertObj_sorted (ih rest) fun p hp => other p ((sortObjs_perm r).mem_iff.mp hp)

end

/-- Settles O46: the selection has each index once, so insertion puts it into the order of the priorities. -/
theorem objectOrder : Obligations.ObjectOrder := by
  unfold Obligations.ObjectOrder
  intro rd tall ly
  have distinct : (selectObjs rd tall ly).Pairwise (fun o p => o.index ≠ p.index) :=
    (coveringObjs_rising.sublist (List.take_sublist 10 _)).imp fun h => h.ne
  exact ⟨(List.reverse_perm _).trans (sortObjs_perm _), List.pairwise_reverse.mpr (sortObjs_sorted distinct)⟩

end Sys2Proof.Machine
end

section
/-! PROOF. The pixels of a line: its composition (O47), the colour indices behind it (O60), and the window's line
counter (O48). -/

namespace Sys2Proof.Machine

/-! ## Bits, palettes and tiles -/

theorem toNat_bit (v : Byte) (i : Nat) : (bit v i).toNat = v.toNat / 2 ^ i % 2 := Nat.toNat_testBit v.toNat i

/-- R361: a shade is two bits of its palette. -/
theorem toNat_paletteShade (reg : Byte) (i : BitVec 2) :
    (paletteShade reg i).toNat = reg.toNat / 4 ^ i.toNat % 4 := by
  rw [paletteShade, extractLsb'_eq_ofNat, BitVec.toNat_ofNat, Nat.pow_mul]

/-- R355: a pixel is a bit of each of the two bytes of its row. -/
theorem toNat_tilePixel (rd : Nat → Byte) (addr y x : Nat) :
    (tilePixel rd addr y x).toNat = tilePixelNumber rd addr x y := by
  have two : ∀ a b : Bool, (BitVec.ofBool a ++ BitVec.ofBool b).toNat = 2 * a.toNat + b.toNat := by decide
  rw [tilePixel, two, toNat_bit, toNat_bit, tilePixelNumber]

/-- R356: with `TILE_DATA` clear an index counts from `0x9000`, as a signed number. -/
theorem tileAddr_eq (lcdc idx : Byte) : tileAddr lcdc idx = tileStart lcdc idx := by
  have := idx.isLt
  unfold tileAddr tileStart bit
  split
  · rfl
  · split <;> omega

/-! ## The layer (R352 to R357) -/

section
variable {rd : Nat → Byte} {r : LineRegs} {tall : Bool} {objs : List ObjEntry} {o : ObjEntry} {wy col : Nat}

theorem windowCovers_iff : windowCovers r col = true ↔
    r.lcdc.getLsbD 5 = true ∧ r.lcdc.getLsbD 0 = true ∧ r.wy.toNat ≤ r.ly.toNat ∧ r.wx.toNat ≤ col + 7 := by
  simp [windowCovers, bit, and_assoc]

theorem layerColour_disabled (off : bit r.lcdc 0 = false) : layerColour rd r wy col = 0 := by
  simp [layerColour, backgroundColour, windowCovers, off]

theorem toNat_layerColour_background (on : bit r.lcdc 0 = true) (outside : windowCovers r col = false) :
    let x := (r.scx.toNat + col) % 256
    let y := (r.scy.toNat + r.ly.toNat) % 256
    (layerColour rd r wy col).toNat =
      tilePixelNumber rd (tileStart r.lcdc (rd (mapEntry (r.lcdc.getLsbD 3) x y))) (x % 8) (y % 8) := by
  intro x y
  have layer : layerColour rd r wy col = tilePixel rd (tileAddr r.lcdc (rd (mapEntry (r.lcdc.getLsbD 3) x y)))
      (y % 8) (x % 8) := by
    rw [layerColour, if_neg (by simp [outside]), backgroundColour, if_pos on]
    rfl
  rw [layer, toNat_tilePixel, tileAddr_eq]

theorem toNat_layerColour_window (inside : windowCovers r col = true) :
    let x := col + 7 - r.wx.toNat
    (layerColour rd r wy col).toNat =
      tilePixelNumber rd (tileStart r.lcdc (rd (mapEntry (r.lcdc.getLsbD 6) x wy))) (x % 8) (wy % 8) := by
  intro x
  have layer : layerColour rd r wy col = tilePixel rd (tileAddr r.lcdc (rd (mapEntry (r.lcdc.getLsbD 6) x wy)))
      (wy % 8) (x % 8) := by
    rw [layerColour, if_pos inside]
    rfl
  rw [layer, toNat_tilePixel, tileAddr_eq]

/-! ## Objects over the layer (R359, R360) -/

/-- R360: the even tile of a pair. -/
theorem toNat_and_FE : ∀ t : Byte, (t &&& 0xFE).toNat = t.toNat / 2 * 2 := by decide +kernel

theorem coversCol_iff : o.coversCol col = true ↔ o.x.toNat ≤ col + 8 ∧ col < o.x.toNat := by
  simp [ObjEntry.coversCol]

theorem toNat_objectColour (covers : coversLine o tall r.ly.toNat) :
    let x := col + 8 - o.x.toNat
    let y := r.ly.toNat + 16 - o.y.toNat
    let column := if o.flags.getLsbD 5 then 7 - x else x
    let row := if o.flags.getLsbD 6 then (if tall then 15 - y else 7 - y) else y
    (objectColour rd tall r.ly o col).toNat =
      tilePixelNumber rd (0x8000 + 16 * (if tall then o.tile.toNat / 2 * 2 + row / 8 else o.tile.toNat)) column
        (row % 8) := by
  intro x y column row
  obtain ⟨-, above⟩ := covers
  cases tall with
  | true =>
    have colour : objectColour rd true r.ly o col
        = tilePixel rd (0x8000 + 16 * ((o.tile &&& 0xFE).toNat + row / 8)) (row % 8) column := rfl
    rw [colour, toNat_tilePixel, toNat_and_FE]
    rfl
  | false =>
    have colour : objectColour rd false r.ly o col = tilePixel rd (0x8000 + 16 * o.tile.toNat) row column := rfl
    have within : row < 8 := by
      simp only [row, y]
      split <;> simp at above ⊢ <;> omega
    rw [colour, toNat_tilePixel, Nat.mod_eq_of_lt within]
    rfl

/-- R351, R359: an object is painted where it covers the column with an opaque pixel that is not behind the layer. -/
theorem paintObject_eq (bgc : BitVec 2) (shade : Shade) :
    paintObject rd r tall bgc col shade o =
      if bit r.lcdc 1 = true ∧ o.coversCol col = true ∧ objectColour rd tall r.ly o col ≠ 0 ∧
          ¬ (bit o.flags 7 = true ∧ bgc ≠ 0) then
        paletteShade (if bit o.flags 4 then r.obp1 else r.obp0) (objectColour rd tall r.ly o col)
      else shade := by
  simp only [paintObject, Bool.and_eq_true, bne_iff_ne, Bool.not_eq_true', ← Bool.not_eq_true (_ && _), ite_and]

theorem paintObject_leaves {bgc : BitVec 2} (shade : Shade)
    (h : bit r.lcdc 1 = false ∨ o.coversCol col = false ∨ objectColour rd tall r.ly o col = 0 ∨
      (bit o.flags 7 = true ∧ bgc ≠ 0)) :
    paintObject rd r tall bgc col shade o = shade := by
  rw [paintObject_eq, if_neg]
  rintro ⟨on, covers, coloured, front⟩
  rcases h with off | beside | clear | behind
  · simp [off] at on
  · simp [beside] at covers
  · exact coloured clear
  · exact front behind

/-! ## Composition (R351, R353) -/

theorem composeLine_getD (within : col < 160) :
    (composeLine rd r tall objs wy).getD col 0 = composeColumn rd r tall objs wy col := by
  simp [composeLine, within]

theorem composeColumn_on (on : bit r.lcdc 7 = true) :
    composeColumn rd r tall objs wy col = objs.foldl (paintObject rd r tall (layerColour rd r wy col) col)
      (paletteShade r.bgp (layerColour rd r wy col)) := if_pos on

/-- The object of the highest priority is painted last. -/
theorem composeColumn_append (on : bit r.lcdc 7 = true) :
    composeColumn rd r tall (objs ++ [o]) wy col
      = paintObject rd r tall (layerColour rd r wy col) col (composeColumn rd r tall objs wy col) o := by
  rw [composeColumn_on on, composeColumn_on on, List.foldl_append]
  rfl

theorem composeColumn_layer (on : bit r.lcdc 7 = true)
    (bare : (∀ o ∈ objs, o.coversCol col = false) ∨ bit r.lcdc 1 = false) :
    composeColumn rd r tall objs wy col = paletteShade r.bgp (layerColour rd r wy col) := by
  rw [composeColumn_on on]
  refine List.foldlRecOn objs _ (motive := fun shade => shade = paletteShade r.bgp (layerColour rd r wy col)) rfl ?_
  intro shade same o listed
  rw [paintObject_leaves shade (by
    rcases bare with none | off
    · exact .inr (.inl (none o listed))
    · exact .inl off)]
  exact same

theorem composeLine_off (off : bit r.lcdc 7 = false) : composeLine rd r tall objs wy = List.replicate 160 0 := by
  have column : composeColumn rd r tall objs wy = fun _ => 0 := by
    funext col
    exact if_neg (by simp [off])
  rw [composeLine, column, List.map_const', List.length_range]

theorem windowDrawn_iff : windowDrawn r = true ↔
    r.lcdc.getLsbD 7 = true ∧ r.lcdc.getLsbD 5 = true ∧ r.lcdc.getLsbD 0 = true ∧ r.wy.toNat ≤ r.ly.toNat ∧
      ∃ col, col < 160 ∧ r.wx.toNat ≤ col + 7 := by
  simp only [windowDrawn, Bool.and_eq_true, List.any_eq_true, List.mem_range, windowCovers_iff, bit]
  exact and_congr_right fun _ => ⟨fun ⟨col, within, win, bg, line, left⟩ => ⟨win, bg, line, col, within, left⟩,
    fun ⟨win, bg, line, col, within, left⟩ => ⟨col, within, win, bg, line, left⟩⟩

end

/-! ## The claims -/

/-- Settles O47: a column is the layer's shade, painted over by each object that is not left out. -/
theorem composition : Obligations.Composition := by
  unfold Obligations.Composition
  intro rd r tall objs wy
  refine ⟨by simp [composeLine], fun off => ⟨composeLine_off off, ?notDrawn⟩, fun on col within => ?_⟩
  case notDrawn =>
    rw [windowDrawn, show bit r.lcdc 7 = false from off]
    rfl
  simp only [composeLine_getD within, composeColumn_append on, ← coversCol_iff, Bool.not_eq_true]
  refine ⟨fun bare => ?layer, fun o objects left right coloured front => ?painted, fun o h => paintObject_leaves _ h⟩
  case layer => rw [composeColumn_layer on bare, toNat_paletteShade]
  case painted =>
    rw [paintObject_eq, if_pos ⟨objects, coversCol_iff.mpr ⟨left, right⟩, coloured, front⟩, toNat_paletteShade]
    rfl

/-- Settles O60: the layer by whether the window covers the column, and an object's pixel by its row and column. -/
theorem pixelColours : Obligations.PixelColours := by
  unfold Obligations.PixelColours
  intro rd r wy col _ inWindow
  have covers (on : r.lcdc.getLsbD 0 = true) : windowCovers r col = true ↔ inWindow := by
    simp [windowCovers_iff, on, inWindow]
  exact ⟨layerColour_disabled,
    fun on outside => toNat_layerColour_background on (by rwa [← Bool.not_eq_true, covers on]),
    fun on inside => toNat_layerColour_window ((covers on).mpr inside),
    fun o tall line _ _ => toNat_objectColour line⟩

/-- Settles O48: the write of the line also counts a drawn window. -/
theorem windowCounter : Obligations.WindowCounter := by
  unfold Obligations.WindowCounter
  intro s position r drawn
  have move : s.ppuMove = s.writeLine.ppuGo (.pixelTransfer .hold) := by
    rw [State.ppuMove, position]
    rfl
  have counter : s.ppuMove.ppu.windowLine
      = if windowDrawn r then s.ppu.windowLine + 1 else s.ppu.windowLine := by rw [move]; rfl
  rw [counter, move]
  exact ⟨fun h => if_pos (windowDrawn_iff.mpr h), fun h => if_neg (mt windowDrawn_iff.mp h),
    listGet_listSet_same _ _ _⟩

end Sys2Proof.Machine
end

section
/-! PROOF. The actions of the PPU between two holds (O49, O50): one equation per action, in the one form the state keeps
while the PPU moves, and the runs of actions put together from them. -/

namespace Sys2Proof.Machine

/-! ## The form of the state between two actions -/

/-- `STAT` with another mode, as `State.setMode` stores it (R344). -/
def IoRegs.withMode (io : IoRegs) (m : Byte) : IoRegs :=
  io.put .stat (io.get .stat ^^^ ((io.mode.setWidth 8 ^^^ m) &&& 0x03))

/-- `STAT` with another coincidence flag, as `State.setCoincidence` stores it (R364). -/
def IoRegs.withCoincidence (io : IoRegs) (c : Bool) : IoRegs :=
  io.put .stat (if c then io.get .stat ||| 0x04 else io.get .stat &&& ~~~0x04#8)

/-- `IF` with a request of source `i` (R304). -/
def IoRegs.request (io : IoRegs) (i : Nat) : IoRegs := io.put .ifr (io.get .ifr ||| intMask i)

/-- The registers as pixel-transfer reads them (R350). -/
def IoRegs.lineRegs (io : IoRegs) : LineRegs :=
  ⟨io.lcdc, io.scy, io.scx, io.wy, io.wx, io.bgp, io.obp0, io.obp1, io.ly⟩

/-- The state with what the actions of the PPU write, the picture apart. -/
def State.withPpu (s : State) (io : IoRegs) (irq : Bool) (p : Ppu) : State :=
  { s with io := io, irqLatch := irq, ppu := p }

theorem withPpu_self (s : State) : s.withPpu s.io s.irqLatch s.ppu = s := rfl

theorem withMode_mode (io : IoRegs) (m : Byte) : (io.withMode m).mode = m.extractLsb' 0 2 :=
  setMode_mode (State.reset.withPpu io false State.reset.ppu) m

/-- R344: the interrupt selects of `STAT` survive a change of the mode. -/
theorem bit_withMode (io : IoRegs) (m : Byte) {i : Nat} (select : 3 ≤ i ∧ i < 7) :
    bit ((io.withMode m).get .stat) i = io.stat.getLsbD i := by
  obtain ⟨low, high⟩ := select
  interval_cases i <;> simp [IoRegs.withMode, IoRegs.put, IoRegs.get, bit]

/-- R364: they survive a change of the coincidence flag, too. -/
theorem bit_withCoincidence (io : IoRegs) (c : Bool) {i : Nat} (select : 3 ≤ i ∧ i < 7) :
    bit ((io.withCoincidence c).get .stat) i = io.stat.getLsbD i := by
  obtain ⟨low, high⟩ := select
  cases c <;> interval_cases i <;> simp [IoRegs.withCoincidence, IoRegs.put, IoRegs.get, bit]

theorem withCoincidence_coincidence (io : IoRegs) (c : Bool) : (io.withCoincidence c).coincidence = c := by
  cases c <;> simp [IoRegs.withCoincidence, IoRegs.coincidence, IoRegs.put]

theorem request_ifr (io : IoRegs) {i : Nat} (source : i < 5) :
    (io.request i).ifr = io.ifr ||| BitVec.ofNat 5 (2 ^ i) := extractLsb'_or_intMask io.ifr i source

/-! ## The actions -/

section
variable {s : State} {io : IoRegs} {irq : Bool} {p : Ppu}

theorem ppuMove_oam {q : OamPos} (h : p.pos = .oamSearch q) :
    (s.withPpu io irq p).ppuMove = (s.withPpu io irq p).oamAction q := by
  simp only [State.ppuMove, State.withPpu, h]

theorem ppuMove_xfer {q : XferPos} (h : p.pos = .pixelTransfer q) :
    (s.withPpu io irq p).ppuMove = (s.withPpu io irq p).xferAction q := by
  simp only [State.ppuMove, State.withPpu, h]

theorem ppuMove_hBlank {q : HbPos} (h : p.pos = .hBlank q) :
    (s.withPpu io irq p).ppuMove = (s.withPpu io irq p).hBlankAction q := by
  simp only [State.ppuMove, State.withPpu, h]

theorem ppuMove_vBlank {q : VbPos} (h : p.pos = .vBlank q) :
    (s.withPpu io irq p).ppuMove = (s.withPpu io irq p).vBlankAction q := by
  simp only [State.ppuMove, State.withPpu, h]

/-! OAM-search (R345 to R348). -/

theorem ppuMove_oamStart (h : p.pos = .oamSearch .start) : (s.withPpu io irq p).ppuMove
    = s.withPpu (io.withMode 2) irq { p with pos := .oamSearch .readStat } := ppuMove_oam h

theorem ppuMove_oamReadStat (h : p.pos = .oamSearch .readStat) {c : Bool} (select : bit (io.get .stat) 5 = c) :
    (s.withPpu io irq p).ppuMove = s.withPpu io irq { p with
      seenStat := io.get .stat, pos := .oamSearch (if c then .raise else .readLcdc) } := select ▸ ppuMove_oam h

theorem ppuMove_oamRaise (h : p.pos = .oamSearch .raise) : (s.withPpu io irq p).ppuMove
    = s.withPpu (io.request 1) irq { p with pos := .oamSearch .fire } := ppuMove_oam h

theorem ppuMove_oamFire (h : p.pos = .oamSearch .fire) : (s.withPpu io irq p).ppuMove
    = s.withPpu io true { p with pos := .oamSearch .readLcdc } := ppuMove_oam h

theorem ppuMove_oamReadLcdc (h : p.pos = .oamSearch .readLcdc) : (s.withPpu io irq p).ppuMove
    = s.withPpu io irq { p with tall := bit io.lcdc 2, pos := .oamSearch .readLy } := ppuMove_oam h

theorem ppuMove_oamReadLy (h : p.pos = .oamSearch .readLy) : (s.withPpu io irq p).ppuMove
    = s.withPpu io irq { p with seenLy := io.ly, pos := .oamSearch .snapshot } := ppuMove_oam h

theorem ppuMove_oamSnapshot (h : p.pos = .oamSearch .snapshot) : (s.withPpu io irq p).ppuMove
    = s.withPpu io irq { p with lineObjects := lineObjects s.cell p.tall p.seenLy, pos := .oamSearch .hold } :=
  ppuMove_oam h

/-! Pixel-transfer (R350). -/

theorem ppuMove_xferStart (h : p.pos = .pixelTransfer .start) : (s.withPpu io irq p).ppuMove
    = s.withPpu (io.withMode 3) irq { p with pos := .pixelTransfer (.latch .lcdc) } := ppuMove_xfer h

theorem ppuMove_xferLatch {r : LineReg} (h : p.pos = .pixelTransfer (.latch r)) : (s.withPpu io irq p).ppuMove
    = s.withPpu io irq { p with
        lineRegs := p.lineRegs.put r (io.get r.io)
        pos := .pixelTransfer (match r.next with | some r' => .latch r' | none => .vram) } := ppuMove_xfer h

theorem ppuMove_xferVram (h : p.pos = .pixelTransfer .vram) : (s.withPpu io irq p).ppuMove
    = s.withPpu io irq { p with
        line := composeLine s.cell p.lineRegs p.tall p.lineObjects p.windowLine, pos := .pixelTransfer .write } :=
  ppuMove_xfer h

theorem ppuMove_xferWrite (h : p.pos = .pixelTransfer .write) : (s.withPpu io irq p).ppuMove
    = { s.withPpu io irq { p with
          windowLine := if windowDrawn p.lineRegs then p.windowLine + 1 else p.windowLine
          pos := .pixelTransfer .hold } with
        framebuffer := listSet p.lineRegs.ly.toNat p.line s.framebuffer } := ppuMove_xfer h

/-! HBlank (R362 to R364). -/

theorem ppuMove_hbStart (h : p.pos = .hBlank .start) : (s.withPpu io irq p).ppuMove
    = s.withPpu (io.withMode 0) irq { p with pos := .hBlank .readStat } := ppuMove_hBlank h

theorem ppuMove_hbReadStat (h : p.pos = .hBlank .readStat) : (s.withPpu io irq p).ppuMove
    = s.withPpu io irq { p with seenStat := io.get .stat, pos := .hBlank .readLy } := ppuMove_hBlank h

theorem ppuMove_hbReadLy (h : p.pos = .hBlank .readLy) : (s.withPpu io irq p).ppuMove
    = s.withPpu io irq { p with seenLy := io.ly, pos := .hBlank .readLyc } := ppuMove_hBlank h

theorem ppuMove_hbReadLyc (h : p.pos = .hBlank .readLyc) {c : Bool}
    (select : (bit p.seenStat 3 || (bit p.seenStat 6 && p.seenLy == io.lyc)) = c) : (s.withPpu io irq p).ppuMove
    = s.withPpu io irq { p with seenLyc := io.lyc, pos := .hBlank (if c then .raise else .hold) } :=
  select ▸ ppuMove_hBlank h

theorem ppuMove_hbRaise (h : p.pos = .hBlank .raise) : (s.withPpu io irq p).ppuMove
    = s.withPpu (io.request 1) irq { p with pos := .hBlank .fire } := ppuMove_hBlank h

theorem ppuMove_hbFire (h : p.pos = .hBlank .fire) : (s.withPpu io irq p).ppuMove
    = s.withPpu io true { p with pos := .hBlank .hold } := ppuMove_hBlank h

theorem ppuMove_hbHold (h : p.pos = .hBlank .hold) : (s.withPpu io irq p).ppuMove
    = s.withPpu io irq { p with dot := 0, pos := .hBlank .incLy } := ppuMove_hBlank h

theorem ppuMove_hbIncLy (h : p.pos = .hBlank .incLy) : (s.withPpu io irq p).ppuMove
    = s.withPpu { io with ly := io.ly + 1 } irq { p with pos := .hBlank .coinLy } := ppuMove_hBlank h

theorem ppuMove_hbCoinLy (h : p.pos = .hBlank .coinLy) : (s.withPpu io irq p).ppuMove
    = s.withPpu io irq { p with seenLy := io.ly, pos := .hBlank .coinLyc } := ppuMove_hBlank h

theorem ppuMove_hbCoinLyc (h : p.pos = .hBlank .coinLyc) : (s.withPpu io irq p).ppuMove
    = s.withPpu io irq { p with seenLyc := io.lyc, pos := .hBlank .coinSet } := ppuMove_hBlank h

/-- R364: setting or clearing the flag is one store to `STAT`. -/
theorem withPpu_setCoincidence (c : Bool) :
    (s.withPpu io irq p).setCoincidence c = s.withPpu (io.withCoincidence c) irq p := by cases c <;> rfl

theorem ppuMove_hbCoinSet (h : p.pos = .hBlank .coinSet) : (s.withPpu io irq p).ppuMove
    = s.withPpu (io.withCoincidence (p.seenLy == p.seenLyc)) irq { p with
        pos := if p.seenLy == 144 then .vBlank .start else .oamSearch .start } := by
  rw [ppuMove_hBlank h]
  simp only [State.hBlankAction, withPpu_setCoincidence]
  rfl

/-! VBlank (R365, R366). -/

theorem ppuMove_vbStart (h : p.pos = .vBlank .start) : (s.withPpu io irq p).ppuMove
    = s.withPpu (io.withMode 1) irq { p with pos := .vBlank .raise } := ppuMove_vBlank h

theorem ppuMove_vbRaise (h : p.pos = .vBlank .raise) : (s.withPpu io irq p).ppuMove
    = s.withPpu (io.request 0) irq { p with pos := .vBlank .fire } := ppuMove_vBlank h

theorem ppuMove_vbFire (h : p.pos = .vBlank .fire) : (s.withPpu io irq p).ppuMove
    = s.withPpu io true { p with pos := .vBlank .readStat } := ppuMove_vBlank h

theorem ppuMove_vbReadStat_raises (h : p.pos = .vBlank .readStat)
    (select : (s.params.ppuVblankStatInt && bit (io.get .stat) 4) = true) : (s.withPpu io irq p).ppuMove
    = s.withPpu io irq { p with seenStat := io.get .stat, pos := .vBlank .raiseStat } :=
  (ppuMove_vBlank h).trans (if_pos select)

theorem ppuMove_vbReadStat_quiet (h : p.pos = .vBlank .readStat)
    (select : (s.params.ppuVblankStatInt && bit (io.get .stat) 4) = false) : (s.withPpu io irq p).ppuMove
    = s.withPpu io irq { p with seenStat := io.get .stat, vblankLine := 0, pos := .vBlank .lineStart } :=
  (ppuMove_vBlank h).trans (if_neg (Bool.not_eq_true _ ▸ select))

theorem ppuMove_vbRaiseStat (h : p.pos = .vBlank .raiseStat) : (s.withPpu io irq p).ppuMove
    = s.withPpu (io.request 1) irq { p with pos := .vBlank .fireStat } := ppuMove_vBlank h

theorem ppuMove_vbFireStat (h : p.pos = .vBlank .fireStat) : (s.withPpu io irq p).ppuMove
    = s.withPpu io true { p with vblankLine := 0, pos := .vBlank .lineStart } := ppuMove_vBlank h

theorem ppuMove_vbLineStart (h : p.pos = .vBlank .lineStart) : (s.withPpu io irq p).ppuMove
    = s.withPpu io irq { p with pos := .vBlank .hold } := ppuMove_vBlank h

theorem ppuMove_vbHold (h : p.pos = .vBlank .hold) : (s.withPpu io irq p).ppuMove
    = s.withPpu io irq { p with vblankLine := p.vblankLine + 1, dot := 0, pos := .vBlank .readLy } := ppuMove_vBlank h

theorem ppuMove_vbReadLy (h : p.pos = .vBlank .readLy) : (s.withPpu io irq p).ppuMove
    = s.withPpu io irq { p with seenLy := io.ly, pos := .vBlank .stepLy } := ppuMove_vBlank h

theorem ppuMove_vbStepLy (h : p.pos = .vBlank .stepLy) : (s.withPpu io irq p).ppuMove
    = s.withPpu { io with ly := if p.seenLy = 153 then 0 else io.ly + 1 } irq { p with pos := .vBlank .coinLy } := by
  rw [ppuMove_vBlank h]
  simp only [State.vBlankAction, beq_iff_eq, State.withPpu]
  split <;> rfl

theorem ppuMove_vbCoinLy (h : p.pos = .vBlank .coinLy) : (s.withPpu io irq p).ppuMove
    = s.withPpu io irq { p with seenLy := io.ly, pos := .vBlank .coinLyc } := ppuMove_vBlank h

theorem ppuMove_vbCoinLyc (h : p.pos = .vBlank .coinLyc) : (s.withPpu io irq p).ppuMove
    = s.withPpu io irq { p with seenLyc := io.lyc, pos := .vBlank .coinSet } := ppuMove_vBlank h

theorem ppuMove_vbCoinSet_line (h : p.pos = .vBlank .coinSet) (more : p.vblankLine < 10) :
    (s.withPpu io irq p).ppuMove
      = s.withPpu (io.withCoincidence (p.seenLy == p.seenLyc)) irq { p with pos := .vBlank .lineStart } := by
  rw [ppuMove_vBlank h]
  simp only [State.vBlankAction, withPpu_setCoincidence]
  exact if_neg (Nat.not_le.mpr more)

theorem ppuMove_vbCoinSet_frame (h : p.pos = .vBlank .coinSet) (last : 10 ≤ p.vblankLine) :
    (s.withPpu io irq p).ppuMove
      = s.withPpu (io.withCoincidence (p.seenLy == p.seenLyc)) irq { p with
          windowLine := 0, vblankLine := 0, pos := .oamSearch .start } := by
  rw [ppuMove_vBlank h]
  simp only [State.vBlankAction, withPpu_setCoincidence]
  exact if_pos last

end

end Sys2Proof.Machine
end

section
/-! PROOF. The start actions of the phases and the cycle of the PPU (O49), and the end actions of HBlank and of a VBlank
line (O50). -/

namespace Sys2Proof.Machine

/-! ## Runs of actions -/

section
variable {s t : State} {n : Nat}

theorem ppuToHold_move (move : s.ppuMove = t) (inside : s.ppu.pos.isHold = false) :
    s.ppuToHold false (n + 1) = t.ppuToHold false n := by
  simp [State.ppuToHold, inside, move]

theorem ppuToBoundary_move (move : s.ppuMove = t) (inside : s.ppu.pos.isBoundary = false) :
    s.ppuToBoundary (n + 1) = t.ppuToBoundary n := by
  simp [State.ppuToBoundary, inside, move]

theorem ppuToBoundary_of_isBoundary (boundary : s.ppu.pos.isBoundary = true) : s.ppuToBoundary n = s := by
  cases n <;> simp [State.ppuToBoundary, boundary]

/-! ## OAM-search -/

/-- R347, R348: the object height, `LY` and the snapshot. -/
theorem oamReadLcdc_toHold {io : IoRegs} {irq : Bool} {p : Ppu} (h : p.pos = .oamSearch .readLcdc) :
    (s.withPpu io irq p).ppuToHold false (n + 4) = s.withPpu io irq { p with
      tall := bit io.lcdc 2, seenLy := io.ly, lineObjects := lineObjects s.cell (bit io.lcdc 2) io.ly
      pos := .oamSearch .hold } := by
  have inside : p.pos.isHold = false := by rw [h]; rfl
  exact (ppuToHold_move (ppuMove_oamReadLcdc h) inside).trans <|
    (ppuToHold_move (ppuMove_oamReadLy rfl) rfl).trans <|
    (ppuToHold_move (ppuMove_oamSnapshot rfl) rfl).trans (ppuToHold_of_isHold rfl _ _)

/-- R345 to R349: mode 2, the request, and the objects of the line. -/
theorem oamSearch_toHold (h : s.ppu.pos = .oamSearch .start) {raised : Bool} (select : s.io.stat.getLsbD 5 = raised) :
    s.ppuToHold false ppuFuel = s.withPpu (if raised then (s.io.withMode 2).request 1 else s.io.withMode 2)
      (if raised then true else s.irqLatch) { s.ppu with
        seenStat := (s.io.withMode 2).get .stat, tall := bit s.io.lcdc 2, seenLy := s.io.ly
        lineObjects := lineObjects s.cell (bit s.io.lcdc 2) s.io.ly, pos := .oamSearch .hold } := by
  have seen : bit ((s.io.withMode 2).get .stat) 5 = raised := (bit_withMode s.io 2 (by decide)).trans select
  have inside : s.ppu.pos.isHold = false := by rw [h]; rfl
  refine (ppuToHold_move (ppuMove_oamStart h) inside).trans <|
    (ppuToHold_move (ppuMove_oamReadStat rfl seen) rfl).trans ?_
  cases raised with
  | false => exact oamReadLcdc_toHold rfl
  | true =>
    exact (ppuToHold_move (ppuMove_oamRaise rfl) rfl).trans <|
      (ppuToHold_move (ppuMove_oamFire rfl) rfl).trans (oamReadLcdc_toHold rfl)

/-! ## Pixel-transfer -/

/-- R350: mode 3, the nine registers, the line and its write. -/
theorem pixelTransfer_toHold (h : s.ppu.pos = .pixelTransfer .start) :
    let r := s.io.lineRegs
    let line := composeLine s.cell r s.ppu.tall s.ppu.lineObjects s.ppu.windowLine
    s.ppuToHold false ppuFuel = { s.withPpu (s.io.withMode 3) s.irqLatch { s.ppu with
        lineRegs := r, line := line
        windowLine := if windowDrawn r then s.ppu.windowLine + 1 else s.ppu.windowLine
        pos := .pixelTransfer .hold } with
      framebuffer := listSet s.io.ly.toNat line s.framebuffer } := by
  intro r line
  have inside : s.ppu.pos.isHold = false := by rw [h]; rfl
  refine (ppuToHold_move (ppuMove_xferStart h) inside).trans ?_
  iterate 9 refine (ppuToHold_move (ppuMove_xferLatch rfl) rfl).trans ?_
  exact (ppuToHold_move (ppuMove_xferVram rfl) rfl).trans <|
    (ppuToHold_move (ppuMove_xferWrite rfl) rfl).trans (ppuToHold_of_isHold rfl _ _)

/-! ## HBlank -/

/-- R362: mode 0 and the one request of the two selects. -/
theorem hBlank_toHold (h : s.ppu.pos = .hBlank .start) {raised : Bool}
    (select : (s.io.stat.getLsbD 3 || (s.io.stat.getLsbD 6 && s.io.ly == s.io.lyc)) = raised) :
    s.ppuToHold false ppuFuel = s.withPpu (if raised then (s.io.withMode 0).request 1 else s.io.withMode 0)
      (if raised then true else s.irqLatch) { s.ppu with
        seenStat := (s.io.withMode 0).get .stat, seenLy := s.io.ly, seenLyc := s.io.lyc, pos := .hBlank .hold } := by
  have seen : (bit ((s.io.withMode 0).get .stat) 3 ||
      (bit ((s.io.withMode 0).get .stat) 6 && (s.io.withMode 0).ly == (s.io.withMode 0).lyc)) = raised := by
    rw [bit_withMode s.io 0 (by decide), bit_withMode s.io 0 (by decide)]
    exact select
  have inside : s.ppu.pos.isHold = false := by rw [h]; rfl
  refine (ppuToHold_move (ppuMove_hbStart h) inside).trans <|
    (ppuToHold_move (ppuMove_hbReadStat rfl) rfl).trans <|
    (ppuToHold_move (ppuMove_hbReadLy rfl) rfl).trans <|
    (ppuToHold_move (ppuMove_hbReadLyc rfl (by exact seen)) rfl).trans ?_
  cases raised with
  | false => exact ppuToHold_of_isHold rfl _ _
  | true =>
    exact (ppuToHold_move (ppuMove_hbRaise rfl) rfl).trans <|
      (ppuToHold_move (ppuMove_hbFire rfl) rfl).trans (ppuToHold_of_isHold rfl _ _)

/-- R363, R364: the end actions of HBlank, to the boundary of OAM-search or of VBlank. -/
theorem hBlank_toBoundary (h : s.ppu.pos = .hBlank .hold) :
    s.ppuMove.ppuToBoundary ppuFuel
      = s.withPpu ({ s.io with ly := s.io.ly + 1 }.withCoincidence (s.io.ly + 1 == s.io.lyc)) s.irqLatch { s.ppu with
          dot := 0, seenLy := s.io.ly + 1, seenLyc := s.io.lyc
          pos := if s.io.ly + 1 == 144 then .vBlank .start else .oamSearch .start } := by
  have hold : s.ppuMove = _ := ppuMove_hbHold (s := s) (io := s.io) (irq := s.irqLatch) h
  rw [hold]
  refine (ppuToBoundary_move (ppuMove_hbIncLy rfl) rfl).trans <|
    (ppuToBoundary_move (ppuMove_hbCoinLy rfl) rfl).trans <|
    (ppuToBoundary_move (ppuMove_hbCoinLyc rfl) rfl).trans <|
    (ppuToBoundary_move (ppuMove_hbCoinSet rfl) rfl).trans (ppuToBoundary_of_isBoundary ?_)
  show PpuPos.isBoundary (if s.io.ly + 1 == 144 then .vBlank .start else .oamSearch .start) = true
  split <;> rfl

/-! ## VBlank -/

/-- R365: mode 1, the VBlank request, by the parameter the STAT one, and the hold of the first line. -/
theorem vBlank_toHold (h : s.ppu.pos = .vBlank .start) {raised : Bool}
    (select : (s.params.ppuVblankStatInt && s.io.stat.getLsbD 4) = raised) :
    let io := (s.io.withMode 1).request 0
    s.ppuToHold false ppuFuel = s.withPpu (if raised then io.request 1 else io) true { s.ppu with
        seenStat := io.get .stat, vblankLine := 0, pos := .vBlank .hold } := by
  intro io
  have seen : (s.params.ppuVblankStatInt && bit (io.get .stat) 4) = raised :=
    (congrArg (s.params.ppuVblankStatInt && ·) (bit_withMode s.io 1 (by decide))).trans select
  have inside : s.ppu.pos.isHold = false := by rw [h]; rfl
  refine (ppuToHold_move (ppuMove_vbStart h) inside).trans <|
    (ppuToHold_move (ppuMove_vbRaise rfl) rfl).trans <|
    (ppuToHold_move (ppuMove_vbFire rfl) rfl).trans ?_
  cases raised with
  | false =>
    exact (ppuToHold_move (ppuMove_vbReadStat_quiet rfl seen) rfl).trans <|
      (ppuToHold_move (ppuMove_vbLineStart rfl) rfl).trans (ppuToHold_of_isHold rfl _ _)
  | true =>
    exact (ppuToHold_move (ppuMove_vbReadStat_raises rfl seen) rfl).trans <|
      (ppuToHold_move (ppuMove_vbRaiseStat rfl) rfl).trans <|
      (ppuToHold_move (ppuMove_vbFireStat rfl) rfl).trans <|
      (ppuToHold_move (ppuMove_vbLineStart rfl) rfl).trans (ppuToHold_of_isHold rfl _ _)

/-- R366: the line after a VBlank line; 153 is followed by 0. -/
def nextVBlankLy (ly : Byte) : Byte := if ly = 153 then 0 else ly + 1

/-- R366: the end actions of a VBlank line, to the next line or to the first line of a frame. -/
theorem vBlank_toBoundary (h : s.ppu.pos = .vBlank .hold) :
    s.ppuMove.ppuToBoundary ppuFuel
      = s.withPpu ({ s.io with ly := nextVBlankLy s.io.ly }.withCoincidence (nextVBlankLy s.io.ly == s.io.lyc))
          s.irqLatch { s.ppu with
            dot := 0, seenLy := nextVBlankLy s.io.ly, seenLyc := s.io.lyc
            vblankLine := if 9 ≤ s.ppu.vblankLine then 0 else s.ppu.vblankLine + 1
            windowLine := if 9 ≤ s.ppu.vblankLine then 0 else s.ppu.windowLine
            pos := if 9 ≤ s.ppu.vblankLine then .oamSearch .start else .vBlank .lineStart } := by
  have hold : s.ppuMove = _ := ppuMove_vbHold (s := s) (io := s.io) (irq := s.irqLatch) h
  rw [hold]
  refine (ppuToBoundary_move (ppuMove_vbReadLy rfl) rfl).trans <|
    (ppuToBoundary_move (ppuMove_vbStepLy rfl) rfl).trans <|
    (ppuToBoundary_move (ppuMove_vbCoinLy rfl) rfl).trans <|
    (ppuToBoundary_move (ppuMove_vbCoinLyc rfl) rfl).trans ?_
  by_cases last : 9 ≤ s.ppu.vblankLine
  · simp only [if_pos last]
    exact (ppuToBoundary_move (ppuMove_vbCoinSet_frame rfl (Nat.succ_le_succ last)) rfl).trans
      (ppuToBoundary_of_isBoundary rfl)
  · simp only [if_neg last]
    exact (ppuToBoundary_move (ppuMove_vbCoinSet_line rfl (Nat.succ_lt_succ (Nat.lt_of_not_le last))) rfl).trans
      (ppuToBoundary_of_isBoundary rfl)

end

end Sys2Proof.Machine
end

section
/-! PROOF. The claims about the PPU's phases (O49, O50). -/

namespace Sys2Proof.Machine

section
variable {s : State}

/-! ## `ppu_dot` (R402) -/

/-- Only the end of a hold changes `ppu_dot`. -/
theorem ppuMove_dot (s : State) : s.ppuMove.ppu.dot = if s.ppu.pos.isHold then 0 else s.ppu.dot := by
  unfold State.ppuMove
  cases s.ppu.pos with
  | oamSearch p => cases p <;> rfl
  | pixelTransfer p => cases p <;> rfl
  | hBlank p =>
    cases p with
    | coinSet =>
      obtain ⟨w, hw⟩ := setCoin_eq s (s.ppu.seenLy == s.ppu.seenLyc)
      simp only [State.hBlankAction, hw]
      rfl
    | _ => rfl
  | vBlank p =>
    cases p with
    | readStat | stepLy =>
      simp only [State.vBlankAction]
      split <;> rfl
    | coinSet =>
      obtain ⟨w, hw⟩ := setCoin_eq s (s.ppu.seenLy == s.ppu.seenLyc)
      simp only [State.vBlankAction, hw]
      split <;> rfl
    | _ => rfl

theorem ppuMove_dot_zero (zero : s.ppu.dot = 0) : s.ppuMove.ppu.dot = 0 := by
  rw [ppuMove_dot, zero, ite_self]

theorem ppuToBoundary_dot_zero (zero : s.ppu.dot = 0) (n : Nat) : (s.ppuToBoundary n).ppu.dot = 0 := by
  induction n generalizing s with
  | zero => exact zero
  | succ n ih =>
    unfold State.ppuToBoundary
    split
    · exact zero
    · exact ih (ppuMove_dot_zero zero)

theorem ppuToHold_dot_zero (zero : s.ppu.dot = 0) (stop : Bool) (n : Nat) : (s.ppuToHold stop n).ppu.dot = 0 := by
  induction n generalizing s with
  | zero => exact zero
  | succ n ih =>
    unfold State.ppuToHold
    split
    · exact zero
    · exact ih (ppuMove_dot_zero zero)

/-- R402: below the budget the cycles of a PPU that holds are counted, one by one. -/
theorem ppuCycles_counts (unparked : s.ppu.parked = false) (hold : s.ppu.pos.isHold = true) (gate : Bool) (n : Nat)
    (below : s.ppu.dot + n < s.ppuBudget) :
    s.ppuCycles gate n = { s with ppu := { s.ppu with dot := s.ppu.dot + n } } := by
  induction n generalizing s with
  | zero => rfl
  | succ n ih =>
    rw [State.ppuCycles, ppuCycle_counts unparked hold (by omega)]
    have below : s.ppu.dot + 1 + n < s.ppuBudget := by omega
    refine (ih (s := { s with ppu := { s.ppu with dot := s.ppu.dot + 1 } }) unparked hold below).trans ?_
    simp only [Nat.add_assoc, Nat.add_comm 1 n]

/-! ## The four holds -/

/-- The budget of each hold (R344). -/
theorem isHold_of_mem {budget : Nat}
    (h : (s.ppu.pos, budget) ∈ [(PpuPos.oamSearch .hold, s.params.phaseBudget.oamSearch),
      (.pixelTransfer .hold, s.params.phaseBudget.pixelTransfer), (.hBlank .hold, s.params.phaseBudget.hBlank),
      (.vBlank .hold, s.params.phaseBudget.vBlankLine)]) :
    s.ppu.pos.isHold = true ∧ s.ppuBudget = budget := by
  simp only [List.mem_cons, Prod.mk.injEq, List.not_mem_nil, or_false] at h
  rcases h with ⟨pos, rfl⟩ | ⟨pos, rfl⟩ | ⟨pos, rfl⟩ | ⟨pos, rfl⟩ <;>
    exact ⟨by rw [pos]; rfl, by rw [State.ppuBudget, pos]; rfl⟩

/-- No hold follows a hold at once. -/
theorem isHold_ppuMove (hold : s.ppu.pos.isHold = true) : s.ppuMove.ppu.pos.isHold = false := by
  unfold State.ppuMove
  cases pos : s.ppu.pos with
  | oamSearch p | pixelTransfer p | hBlank p | vBlank p =>
    rw [pos] at hold
    cases p with
    | hold => rfl
    | _ => cases hold

theorem oamHold_toBoundary (h : s.ppu.pos = .oamSearch .hold) :
    s.ppuMove.ppuToBoundary ppuFuel = { s with ppu := { s.ppu with dot := 0, pos := .pixelTransfer .start } } := by
  have move : s.ppuMove = { s with ppu := { s.ppu with dot := 0, pos := .pixelTransfer .start } } := ppuMove_oam h
  rw [move]
  exact ppuToBoundary_of_isBoundary rfl

theorem xferHold_toBoundary (h : s.ppu.pos = .pixelTransfer .hold) :
    s.ppuMove.ppuToBoundary ppuFuel = { s with ppu := { s.ppu with dot := 0, pos := .hBlank .start } } := by
  have move : s.ppuMove = { s with ppu := { s.ppu with dot := 0, pos := .hBlank .start } } := ppuMove_xfer h
  rw [move]
  exact ppuToBoundary_of_isBoundary rfl

/-! ## The picture (R343) -/

theorem pixel_of_listSet {t : State} {line : Nat} {row : List Shade} (h : t.framebuffer = listSet line row s.framebuffer)
    (col : Nat) :
    t.pixel line col = row.getD col 0 ∧ ∀ other, other ≠ line → t.pixel other col = s.pixel other col := by
  constructor
  · rw [State.pixel, h, listGet_listSet_same]
  · intro other apart
    rw [State.pixel, State.pixel, h, listGet_listSet_other _ _ _ _ apart]

end

/-- Settles O49: the three runs of start actions, the count of a hold, and the end of one. -/
theorem phaseStarts : Obligations.PhaseStarts := by
  unfold Obligations.PhaseStarts
  intro s
  refine ⟨fun start => ?oam, fun start => ?xfer, fun start => ?hBlank, fun gate budget unparked going hold => ?cycle,
    fun unparked hold => ?ends⟩
  case oam =>
    rw [oamSearch_toHold start rfl]
    cases s.io.stat.getLsbD 5 with
    | false => exact ⟨rfl, withMode_mode s.io 2, rfl, rfl, rfl, (Bool.or_false _).symm, rfl, rfl⟩
    | true => exact ⟨rfl, withMode_mode s.io 2, rfl, rfl, request_ifr _ (by decide), (Bool.or_true _).symm, rfl, rfl⟩
  case xfer =>
    rw [pixelTransfer_toHold start]
    exact ⟨rfl, withMode_mode s.io 3, rfl, rfl, rfl, rfl, rfl, fun col => (pixel_of_listSet rfl col).1,
      fun line col apart => (pixel_of_listSet rfl col).2 line apart⟩
  case hBlank =>
    dsimp only
    rw [hBlank_toHold start rfl]
    cases s.io.stat.getLsbD 3 || (s.io.stat.getLsbD 6 && s.io.ly == s.io.lyc) with
    | false => exact ⟨rfl, withMode_mode s.io 0, rfl, (Bool.or_false _).symm, rfl⟩
    | true => exact ⟨rfl, withMode_mode s.io 0, request_ifr _ (by decide), (Bool.or_true _).symm, rfl⟩
  case cycle =>
    obtain ⟨held, rfl⟩ := isHold_of_mem hold
    refine ⟨ppuCycles_counts unparked held gate, fun spent => ?_⟩
    have cycle := ppuCycle_ends (gate := gate) unparked held spent
    rw [if_neg (by rcases going with h | h <;> simp [h])] at cycle
    have zero : s.ppuMove.ppu.dot = 0 := by rw [ppuMove_dot, if_pos held]
    refine ⟨cycle, ?_, oamHold_toBoundary, xferHold_toBoundary⟩
    rw [cycle]
    exact ppuToHold_dot_zero (ppuToBoundary_dot_zero zero _) _ _
  case ends =>
    rw [ppuAction_moves unparked (.inr (isBoundary_of_isHold hold))]
    exact ⟨by rw [ppuMove_dot, if_pos hold], isHold_ppuMove hold⟩

/-- R365: the entry to VBlank from line 143, on the state the end actions of HBlank leave. -/
theorem vBlank_entry {s : State} (h : s.ppu.pos = .vBlank .start) :
    let t := s.ppuToHold false ppuFuel
    t.ppu.pos = .vBlank .hold ∧ t.io.mode = 1 ∧ t.ppu.vblankLine = 0 ∧ t.irqLatch = true ∧
      t.io.ifr = (if s.params.ppuVblankStatInt && s.io.stat.getLsbD 4 then s.io.ifr ||| 0b00011
        else s.io.ifr ||| 0b00001) := by
  dsimp only
  rw [vBlank_toHold h rfl]
  have vblank : ((s.io.withMode 1).request 0).ifr = s.io.ifr ||| 0b00001 := request_ifr _ (by decide)
  cases s.params.ppuVblankStatInt && s.io.stat.getLsbD 4 with
  | false => exact ⟨rfl, withMode_mode s.io 1, rfl, rfl, vblank⟩
  | true =>
    refine ⟨rfl, withMode_mode s.io 1, rfl, rfl, (request_ifr _ (by decide)).trans ?_⟩
    rw [vblank, BitVec.or_assoc]
    rfl

/-- The line after HBlank is the first of VBlank only after line 143 (R363). -/
theorem succ_eq_144_iff (ly : Byte) : ly + 1 = 144 ↔ ly = 143 := by bv_omega

/-- Settles O50: the two runs of end actions, and the entry to VBlank. -/
theorem lineEnds : Obligations.LineEnds := by
  unfold Obligations.LineEnds
  intro s u t stat next
  refine ⟨fun hold => ?hBlank, fun hold => ?vBlank⟩
  case hBlank =>
    have run : u = _ := hBlank_toBoundary hold
    simp only [beq_iff_eq, succ_eq_144_iff] at run
    have ifr : u.io.ifr = s.io.ifr := by rw [run]; rfl
    refine ⟨by rw [run]; rfl, by rw [run]; exact withCoincidence_coincidence _ _, ifr, by rw [run]; rfl,
      fun other => by rw [run]; exact if_neg other, fun last => ?_⟩
    have start : u.ppu.pos = .vBlank .start := by rw [run]; exact if_pos last
    have select : u.io.stat.getLsbD 4 = s.io.stat.getLsbD 4 := by
      rw [run]
      exact bit_withCoincidence { s.io with ly := s.io.ly + 1 } _ (by decide)
    have params : u.params = s.params := by rw [run]; rfl
    obtain ⟨pos, mode, line, latch, requests⟩ := vBlank_entry start
    rw [select, params, ifr] at requests
    exact ⟨start, pos, mode, line, latch, requests⟩
  case vBlank =>
    have run : u = _ := vBlank_toBoundary hold
    rw [run]
    refine ⟨rfl, withCoincidence_coincidence _ _, rfl, rfl, fun more => ?_, fun last => ⟨if_pos last, if_pos last⟩⟩
    have more := Nat.not_le.mpr more
    exact ⟨if_neg more, if_neg more, if_neg more⟩

end Sys2Proof.Machine
end

section
/-! PROOF. The cycle of the Timer and the count of `DIV` (O44). -/

namespace Sys2Proof.Machine

section
variable {s t : State} {gate : Bool}

/-! ## The Timer's actions, one by one (R391 to R393) -/

theorem timerMove_blocked_still (h : s.timer.pos = .blocked) (none : s.timerEnableLatch = false) : s.timerMove = s := by
  simp [State.timerMove, h, none]

theorem timerMove_blocked_latched (h : s.timer.pos = .blocked) (latched : s.timerEnableLatch = true) :
    s.timerMove = { s with timerEnableLatch := false, timer := { s.timer with pos := .woken } } := by
  simp [State.timerMove, h, latched]

/-- The enable bit as the Timer reads it. -/
theorem bit_loadTac (s : State) : bit (s.ioLoad 0xFF07#16) 2 = s.io.timerEnable := by
  show (s.io.tac.setWidth 8).getLsbD 2 = s.io.tac.getLsbD 2
  simp

theorem timerMove_woken_disabled (h : s.timer.pos = .woken) (off : s.io.timerEnable = false) :
    s.timerMove = { s with timer := { s.timer with pos := .blocked } } := by
  simp [State.timerMove, h, bit_loadTac, off, State.timerGo]

theorem timerMove_woken_enabled (h : s.timer.pos = .woken) (on : s.io.timerEnable = true) :
    s.timerMove = { s with timer := { s.timer with div := 0, pos := .counting } } := by
  simp [State.timerMove, h, bit_loadTac, on]

theorem timerMove_counting_disabled (h : s.timer.pos = .counting) (off : s.io.timerEnable = false) :
    s.timerMove = { s with timer := { s.timer with pos := .blocked } } := by
  simp [State.timerMove, h, bit_loadTac, off, State.timerGo]

theorem timerMove_counting_enabled (h : s.timer.pos = .counting) (on : s.io.timerEnable = true) :
    s.timerMove = s.timerTick (s.io.tac.setWidth 8) := by
  simp only [State.timerMove, h, bit_loadTac, on, if_true]
  rfl

theorem timerMove_addTima (h : s.timer.pos = .addTima) :
    s.timerMove = { s with
      io := { s.io with tima := s.io.tima + 1 }
      timer := { s.timer with pos := if s.io.tima = 0xFF then .readTma else .counting } } := by
  have wraps : s.ioAddWraps 0xFF05#16 1 = decide (s.io.tima = 0xFF) := by
    show decide (255 < s.io.tima.toNat + 1) = _
    exact decide_eq_decide.mpr (by bv_omega)
  simp only [State.timerMove, h, wraps, decide_eq_true_eq]
  rfl

theorem timerMove_readTma (h : s.timer.pos = .readTma) :
    s.timerMove = { s with timer := { s.timer with pos := .storeTima s.io.tma } } := by
  simp only [State.timerMove, h]
  rfl

theorem timerMove_storeTima {v : Byte} (h : s.timer.pos = .storeTima v) :
    s.timerMove = { s with io := { s.io with tima := v }, timer := { s.timer with pos := .raise } } := by
  simp only [State.timerMove, h]
  rfl

theorem timerMove_raise (h : s.timer.pos = .raise) :
    s.timerMove = { s with
      io := { s.io with ifr := s.io.ifr ||| 0b00100 }, timer := { s.timer with pos := .fire } } := by
  simp only [State.timerMove, h, raiseIf_eq s (show 2 < 5 by decide)]
  rfl

theorem timerMove_fire (h : s.timer.pos = .fire) :
    s.timerMove = { s with irqLatch := true, timer := { s.timer with pos := .counting } } := by
  simp only [State.timerMove, h]
  rfl

/-! ## `Tick` (R392) -/

theorem timerTick_below {tac : Byte} (below : s.timer.div + 1 < timerPeriod tac) :
    s.timerTick tac = { s with timer := { s.timer with div := s.timer.div + 1 } } := if_neg (by omega)

theorem timerTick_full {tac : Byte} (full : timerPeriod tac ≤ s.timer.div + 1) :
    s.timerTick tac = { s with timer := { s.timer with div := 0, pos := .addTima } } := if_pos full

/-- The period of each `TAC.CLOCK_SELECT` (R392). -/
theorem timerPeriod_of_mem {tac : BitVec 3} {period : Nat}
    (h : (tac.toNat % 4, period) ∈ [(0, 256), (1, 4), (2, 16), (3, 64)]) :
    timerPeriod (tac.setWidth 8) = period := by
  have select : (tac.setWidth 8).toNat = tac.toNat := BitVec.toNat_setWidth_of_le (by decide)
  simp only [List.mem_cons, Prod.mk.injEq, List.not_mem_nil, or_false] at h
  rw [timerPeriod, select]
  rcases h with ⟨e, rfl⟩ | ⟨e, rfl⟩ | ⟨e, rfl⟩ | ⟨e, rfl⟩ <;>
    (rw [e]; rfl)

/-- No period is a single cycle. -/
theorem one_lt_timerPeriod (tac : Byte) : 1 < timerPeriod tac := by
  unfold timerPeriod
  split <;> decide

/-! ## What the Timer's actions neither read nor write -/

/-- The state with the memory, the parameters, the gate of the host, the Timer's parking and the `DIV` count of
another. -/
def State.beside (s o : State) : State :=
  { s with mem := o.mem, params := o.params, stepMode := o.stepMode
           timer := { s.timer with parked := o.timer.parked, divCount := o.timer.divCount } }

theorem beside_self (s : State) : s.beside s = s := rfl

theorem timerTick_beside (s o : State) (tac : Byte) : (s.beside o).timerTick tac = (s.timerTick tac).beside o := by
  rcases Nat.lt_or_ge (s.timer.div + 1) (timerPeriod tac) with below | full
  · rw [timerTick_below below, timerTick_below (s := s.beside o) below]
    rfl
  · rw [timerTick_full full, timerTick_full (s := s.beside o) full]
    rfl

theorem timerMove_beside (s o : State) : (s.beside o).timerMove = s.timerMove.beside o := by
  cases pos : s.timer.pos with
  | blocked =>
    cases latch : s.timerEnableLatch with
    | false => rw [timerMove_blocked_still pos latch, timerMove_blocked_still (s := s.beside o) pos latch]
    | true =>
      rw [timerMove_blocked_latched pos latch, timerMove_blocked_latched (s := s.beside o) pos latch]
      rfl
  | woken =>
    cases enable : s.io.timerEnable with
    | false =>
      rw [timerMove_woken_disabled pos enable, timerMove_woken_disabled (s := s.beside o) pos enable]
      rfl
    | true =>
      rw [timerMove_woken_enabled pos enable, timerMove_woken_enabled (s := s.beside o) pos enable]
      rfl
  | counting =>
    cases enable : s.io.timerEnable with
    | false =>
      rw [timerMove_counting_disabled pos enable, timerMove_counting_disabled (s := s.beside o) pos enable]
      rfl
    | true =>
      rw [timerMove_counting_enabled pos enable, timerMove_counting_enabled (s := s.beside o) pos enable]
      exact timerTick_beside s o _
  | addTima =>
    rw [timerMove_addTima pos, timerMove_addTima (s := s.beside o) pos]
    rfl
  | readTma =>
    rw [timerMove_readTma pos, timerMove_readTma (s := s.beside o) pos]
    rfl
  | storeTima v =>
    rw [timerMove_storeTima pos, timerMove_storeTima (s := s.beside o) pos]
    rfl
  | raise =>
    rw [timerMove_raise pos, timerMove_raise (s := s.beside o) pos]
    rfl
  | fire =>
    rw [timerMove_fire pos, timerMove_fire (s := s.beside o) pos]
    rfl

theorem timerToRest_beside (s o : State) (n : Nat) : (s.beside o).timerToRest n = (s.timerToRest n).beside o := by
  induction n generalizing s with
  | zero => rfl
  | succ n ih =>
    unfold State.timerToRest
    rw [timerMove_beside, ih]
    exact (apply_ite (State.beside · o) _ _ _).symm

/-! ## The cycle, the `DIV` count apart (R402) -/

/-- The actions of a cycle: the rest of an overflow, the wake, and the tick. -/
def State.timerRun (s : State) : State := (s.timerToRest timerFuel).timerWake.timerTickCycle

theorem timerRun_beside (s o : State) : (s.beside o).timerRun = s.timerRun.beside o := by
  have wake : ∀ u : State, (u.beside o).timerWake = u.timerWake.beside o := fun u => by
    unfold State.timerWake
    rw [timerMove_beside, timerMove_beside]
    exact (apply_ite (State.beside · o) _ _ _).symm
  have tick : ∀ u : State, (u.beside o).timerTickCycle = u.timerTickCycle.beside o := fun u => by
    unfold State.timerTickCycle
    rw [timerMove_beside, timerToRest_beside]
    exact (apply_ite (State.beside · o) _ _ _).symm
  rw [State.timerRun, timerToRest_beside, wake, tick, State.timerRun]

/-- The actions of a cycle leave what they do not read. -/
theorem timerRun_keeps (s : State) : s.timerRun.beside s = s.timerRun := (timerRun_beside s s).symm

/-- R408: a cycle of a Timer that does not test `step_mode` or finds it clear. -/
theorem timerCycle_runs (going : gate = false ∨ s.stepMode = false) (unparked : s.timer.parked = false) :
    s.timerCycle gate = s.timerRun.divCycle := by
  have ungated : (gate && s.stepMode) = false := by rcases going with h | h <;> simp [h]
  simp [State.timerCycle, unparked, ungated, State.timerRun]

theorem divCycle_off (off : s.params.divFreeRunning = false) : s.divCycle = s := by
  simp [State.divCycle, off]

theorem timerCycle_divOff (going : gate = false ∨ s.stepMode = false) (unparked : s.timer.parked = false)
    (off : s.params.divFreeRunning = false) : s.timerCycle gate = s.timerRun := by
  have still : s.timerRun.params.divFreeRunning = false := by rw [← timerRun_keeps]; exact off
  rw [timerCycle_runs going unparked, divCycle_off still]

/-! ## The five cycles of a Timer at rest -/

theorem timerRun_counting (h : s.timer.pos = .counting) : s.timerRun = s.timerMove.timerToRest timerFuel := by
  have rest : s.timer.pos.atRest = true := by rw [h]; rfl
  simp [State.timerRun, timerToRest_of_atRest rest, State.timerWake, State.timerTickCycle, h]

theorem timerRun_disabled (h : s.timer.pos = .counting) (off : s.io.timerEnable = false) :
    s.timerRun = { s with timer := { s.timer with pos := .blocked } } := by
  rw [timerRun_counting h, timerMove_counting_disabled h off, timerToRest_of_atRest rfl]

theorem timerRun_below (h : s.timer.pos = .counting) (on : s.io.timerEnable = true)
    (below : s.timer.div + 1 < timerPeriod (s.io.tac.setWidth 8)) :
    s.timerRun = { s with timer := { s.timer with div := s.timer.div + 1 } } := by
  have rest : s.timer.pos.atRest = true := by rw [h]; rfl
  rw [timerRun_counting h, timerMove_counting_enabled h on, timerTick_below below]
  exact timerToRest_of_atRest (by exact rest) _

theorem timerToRest_move {n : Nat} (move : s.timerMove = t) (inside : s.timer.pos.atRest = false) :
    s.timerToRest (n + 1) = t.timerToRest n := by
  simp [State.timerToRest, inside, move]

/-- `IncrementTIMA` without an overflow (R393). -/
theorem addTima_toRest (h : s.timer.pos = .addTima) (room : s.io.tima ≠ 0xFF) :
    s.timerToRest timerFuel = { s with
      io := { s.io with tima := s.io.tima + 1 }, timer := { s.timer with pos := .counting } } := by
  have inside : s.timer.pos.atRest = false := by rw [h]; rfl
  have move := timerMove_addTima h
  rw [if_neg room] at move
  exact (timerToRest_move move inside).trans (timerToRest_of_atRest rfl _)

/-- `IncrementTIMA` with an overflow: the reload and the request (R393). -/
theorem addTima_toRest_overflow (h : s.timer.pos = .addTima) (full : s.io.tima = 0xFF) :
    s.timerToRest timerFuel = { s with
      io := { s.io with tima := s.io.tma, ifr := s.io.ifr ||| 0b00100 }
      irqLatch := true
      timer := { s.timer with pos := .counting } } := by
  have inside : s.timer.pos.atRest = false := by rw [h]; rfl
  have move := timerMove_addTima h
  rw [if_pos full] at move
  exact (timerToRest_move move inside).trans <|
    (timerToRest_move (timerMove_readTma rfl) rfl).trans <|
    (timerToRest_move (timerMove_storeTima rfl) rfl).trans <|
    (timerToRest_move (timerMove_raise rfl) rfl).trans <|
    (timerToRest_move (timerMove_fire rfl) rfl).trans (timerToRest_of_atRest rfl _)

theorem timerRun_full (h : s.timer.pos = .counting) (on : s.io.timerEnable = true)
    (full : timerPeriod (s.io.tac.setWidth 8) ≤ s.timer.div + 1) :
    s.timerRun = State.timerToRest timerFuel { s with timer := { s.timer with div := 0, pos := .addTima } } := by
  rw [timerRun_counting h, timerMove_counting_enabled h on, timerTick_full full]

/-- R391: without a latch a blocked Timer stands still. -/
theorem timerRun_blocked_still (h : s.timer.pos = .blocked) (none : s.timerEnableLatch = false) : s.timerRun = s := by
  have rest : s.timer.pos.atRest = true := by rw [h]; rfl
  simp [State.timerRun, timerToRest_of_atRest rest, State.timerWake, State.timerTickCycle, h, none]

/-- R391: the wake takes two actions, and then the cycle ticks if the Timer counts. -/
theorem timerRun_blocked_latched (h : s.timer.pos = .blocked) (latched : s.timerEnableLatch = true) :
    s.timerRun = (State.timerMove { s with
      timerEnableLatch := false, timer := { s.timer with pos := .woken } }).timerTickCycle := by
  have rest : s.timer.pos.atRest = true := by rw [h]; rfl
  rw [State.timerRun, timerToRest_of_atRest rest, State.timerWake, if_pos ⟨h, latched⟩, timerMove_blocked_latched h latched]

theorem timerRun_wake_disabled (h : s.timer.pos = .blocked) (latched : s.timerEnableLatch = true)
    (off : s.io.timerEnable = false) : s.timerRun = { s with timerEnableLatch := false } := by
  rw [timerRun_blocked_latched h latched]
  refine (congrArg State.timerTickCycle (timerMove_woken_disabled rfl (by exact off))).trans ?_
  exact (if_neg (by simp)).trans (by rw [← h])

theorem timerRun_wake_enabled (h : s.timer.pos = .blocked) (latched : s.timerEnableLatch = true)
    (on : s.io.timerEnable = true) :
    s.timerRun = { s with timerEnableLatch := false, timer := { s.timer with pos := .counting, div := 1 } } := by
  rw [timerRun_blocked_latched h latched]
  refine (congrArg State.timerTickCycle (timerMove_woken_enabled rfl (by exact on))).trans <| (if_pos rfl).trans <|
    (congrArg (State.timerToRest timerFuel) ((timerMove_counting_enabled rfl (by exact on)).trans <|
      timerTick_below (by exact one_lt_timerPeriod _))).trans (timerToRest_of_atRest rfl _)

/-! ## The count of `DIV` (R394) -/

theorem peek_div (s : State) : s.peek 0xFF04 = s.cell 0xFF04 := (if_pos rfl).trans rfl

/-- Only `0xFF04` reaches the storage of `DIV`. -/
theorem storageKey_ne_div {a : Word} (other : a ≠ 0xFF04) : storageKey a ≠ 0xFF04 := by
  rw [storageKey_eq]
  split <;> bv_omega

/-- A unit of the count is beside what the Timer's actions read. -/
theorem divCycle_keeps (s : State) : s.beside s.divCycle = s.divCycle := by
  unfold State.divCycle
  split
  · split <;> rfl
  · rfl

theorem divCycle_gate (s : State) : s.divCycle.stepMode = s.stepMode ∧ s.divCycle.timer.parked = s.timer.parked := by
  unfold State.divCycle
  split
  · split <;> exact ⟨rfl, rfl⟩
  · exact ⟨rfl, rfl⟩

theorem divCycle_stored (s : State) {a : Word} (other : a ≠ 0xFF04) : s.divCycle.stored a = s.stored a := by
  unfold State.divCycle
  split
  · split
    · exact stored_congr _ _ a (cell_setCell_other _ _ _ _ (storageKey_ne_div other)) rfl (fun _ => rfl)
        (fun n _ _ => by cases n <;> rfl) (fun _ => rfl)
    · rfl
  · rfl

theorem divCycle_counts (on : s.params.divFreeRunning = true) (range : s.timer.divCount < 64) :
    s.divCycle.timer = { s.timer with divCount := (s.timer.divCount + 1) % 64 } ∧
      s.divCycle.cell 0xFF04 = s.cell 0xFF04 + BitVec.ofNat 8 ((s.timer.divCount + 1) / 64) := by
  rw [State.divCycle, if_pos on]
  split
  next last =>
    rw [last]
    exact ⟨rfl, cell_setCell_same _ _ _⟩
  next more =>
    rw [Nat.mod_eq_of_lt (by omega), Nat.div_eq_of_lt (by omega)]
    exact ⟨rfl, (BitVec.add_zero _).symm⟩

/-- A cycle leaves the gate, the parking and the parameters, so that the next one runs like it. -/
theorem timerCycle_gate (going : gate = false ∨ s.stepMode = false) (unparked : s.timer.parked = false) :
    (s.timerCycle gate).stepMode = s.stepMode ∧ (s.timerCycle gate).timer.parked = false := by
  obtain ⟨stepMode, parked⟩ := divCycle_gate s.timerRun
  rw [timerCycle_runs going unparked, stepMode, parked, ← timerRun_keeps]
  exact ⟨rfl, unparked⟩

theorem timerCycle_counts (going : gate = false ∨ s.stepMode = false) (unparked : s.timer.parked = false)
    (on : s.params.divFreeRunning = true) (range : s.timer.divCount < 64) :
    (s.timerCycle gate).timer.divCount = (s.timer.divCount + 1) % 64 ∧
      (s.timerCycle gate).cell 0xFF04 = s.cell 0xFF04 + BitVec.ofNat 8 ((s.timer.divCount + 1) / 64) := by
  rw [timerCycle_runs going unparked, ← timerRun_keeps]
  obtain ⟨timer, cell⟩ := divCycle_counts (s := s.timerRun.beside s) on range
  exact ⟨congrArg Timer.divCount timer, cell⟩

/-- R394: a carry out of the first of `n + 1` units is one of the carries of them all. -/
theorem carry_step (c n : Nat) :
    ((c + 1) % 64 + n) % 64 = (c + (n + 1)) % 64 ∧ (c + 1) / 64 + ((c + 1) % 64 + n) / 64 = (c + (n + 1)) / 64 := by
  omega

theorem timerCycles_counts (going : gate = false ∨ s.stepMode = false) (unparked : s.timer.parked = false)
    (on : s.params.divFreeRunning = true) (range : s.timer.divCount < 64) (n : Nat) :
    (s.timerCycles gate n).timer.divCount = (s.timer.divCount + n) % 64 ∧
      (s.timerCycles gate n).cell 0xFF04 = s.cell 0xFF04 + BitVec.ofNat 8 ((s.timer.divCount + n) / 64) := by
  induction n generalizing s with
  | zero =>
    rw [Nat.add_zero, Nat.mod_eq_of_lt range, Nat.div_eq_of_lt range]
    exact ⟨rfl, (BitVec.add_zero _).symm⟩
  | succ n ih =>
    obtain ⟨stepMode, parked⟩ := timerCycle_gate going unparked
    obtain ⟨count, cell⟩ := timerCycle_counts going unparked on range
    have params := (sameCpu_timerCycle s gate).params
    obtain ⟨modulus, carries⟩ := carry_step s.timer.divCount n
    rw [State.timerCycles]
    refine (ih (by rw [stepMode]; exact going) parked (by rw [params]; exact on)
      (by rw [count]; exact Nat.mod_lt _ (by decide))).imp (fun total => ?_) (fun total => ?_)
    · rw [total, count, modulus]
    · rw [total, count, cell, BitVec.add_assoc, ← BitVec.ofNat_add, carries]

theorem timerCycles_divOff (going : gate = false ∨ s.stepMode = false) (unparked : s.timer.parked = false)
    (off : s.params.divFreeRunning = false) (n : Nat) :
    (s.timerCycles gate n).timer.divCount = s.timer.divCount ∧ (s.timerCycles gate n).mem = s.mem := by
  induction n generalizing s with
  | zero => exact ⟨rfl, rfl⟩
  | succ n ih =>
    have run : s.timerCycle gate = s.timerRun.beside s := by rw [timerRun_keeps, timerCycle_divOff going unparked off]
    rw [State.timerCycles, run]
    exact ih (s := s.timerRun.beside s) going unparked off

end

/-- Settles O44: the cycles of a Timer at rest, and the `DIV` count, which runs beside them. -/
theorem timerCycle : Obligations.TimerCycle := by
  unfold Obligations.TimerCycle
  refine ⟨fun gate s going unparked off => ?cycle, fun gate s going unparked range => ⟨fun n => ?count, fun on => ?unit,
    ?apart⟩⟩
  case cycle =>
    rw [timerCycle_divOff going unparked off]
    refine ⟨timerRun_disabled, fun pos on period select => ?_, timerRun_blocked_still, timerRun_wake_disabled,
      timerRun_wake_enabled⟩
    obtain rfl := timerPeriod_of_mem select
    refine ⟨timerRun_below pos on, fun full room => ?_, fun full wraps => ?_⟩
    · rw [timerRun_full pos on full]
      exact (addTima_toRest rfl (by exact room)).trans (by rw [← pos])
    · rw [timerRun_full pos on full]
      exact (addTima_toRest_overflow rfl (by exact wraps)).trans (by rw [← pos])
  case count =>
    simp only [peek_div]
    refine ⟨fun on => timerCycles_counts going unparked on range n, fun off => ?_⟩
    obtain ⟨count, mem⟩ := timerCycles_divOff going unparked off n
    exact ⟨count, by rw [State.cell, mem, State.cell]⟩
  case unit =>
    rw [divAction_counts unparked, peek_div, peek_div]
    exact divCycle_counts on range
  case apart =>
    intro off t u
    have run : t = s.timerRun.divCycle := timerCycle_runs going unparked
    have runOff : u = s.timerRun.beside off :=
      (timerCycle_divOff (s := off) going unparked rfl).trans (timerRun_beside s off)
    have same : t = s.timerRun.beside s.timerRun.divCycle := run.trans (divCycle_keeps _).symm
    have parked : s.timerRun.divCycle.timer.parked = s.timer.parked := by
      rw [(divCycle_gate _).2, ← timerRun_keeps]
      rfl
    have timer : { t.timer with divCount := 0 } = { u.timer with divCount := 0 } := by
      rw [same, runOff]
      simp only [State.beside, parked, off]
    refine ⟨by rw [same, runOff]; rfl, by rw [same, runOff]; rfl, by rw [same, runOff]; rfl, timer, fun a other => ?_⟩
    rw [run, runOff, divCycle_stored _ other, ← timerRun_keeps]
    rfl

end Sys2Proof.Machine
end
